-- ==== Sys2Proof/Word.lean ====
section
/-! DEFINITION. The word types of the block: bytes, the 16-bit fields, and byte sequences
(00_scope.md R8: bit 0 is the least significant bit, every value is unsigned). -/

namespace Sys2Proof

/-- A byte is 8 bits (R8). -/
abbrev Byte := BitVec 8

/-- A 16-bit field: a parsed length, a byte count, a checksum (R30, R63, R64). -/
abbrev Half := BitVec 16

/-- A byte sequence; its head is its first element (20_memory.md R66). -/
abbrev Bytes := List Byte

end Sys2Proof
end

