-- ==== Sys2Proof/Config.lean ====
section
/-! DEFINITION. The implementation parameters of 00_scope.md R6. Those the source or the spec fixes are
plain definitions; those the spec leaves OPEN are constants without a body; `Params` gathers what
an instance may choose, and `Config.params` is the instance the machine runs with. -/

namespace Sys2Proof

/-- Which counter each bounded retry uses (42_initiator.md R180). -/
inductive CounterMap where
  | byStage
  | byPhase
  deriving DecidableEq, Repr

/-- The parameters an instance of the block fixes (R6). They are fixed when the block is
instantiated and cannot change at run time (70_reset_and_hazards.md R263). -/
structure Params where
  escCode : Byte
  bidCode : Byte
  ackCode : Byte
  nakCode : Byte
  startCode : Byte
  endCode : Byte
  /-- The Checksum Service: total, pure, 16-bit result (60_exceptions.md R248). -/
  checksum : Bytes → Half
  /-- `TAG_W`: width of the deadline tag (decision D8); at least 1, since the tag is a field of the word
  (30_encoding.md R81), DEDUCED, log entry 3. -/
  tagW : Nat
  tagW_pos : 0 < tagW := by decide
  /-- `T_DEADLINE`: OPEN, read by no rule (70_reset_and_hazards.md R283). -/
  tDeadline : Nat
  /-- `MAX_TX_LEN`: at most 65535, since `pf_len` has 16 bits (10_state.md R32). -/
  maxTxLen : Fin 65536
  counterMap : CounterMap
  abortSendsNak : Bool
  armAllWaitStates : Bool

namespace Config

/-- `RETRY_CAP`: attempts per retry counter before failure. -/
abbrev retryCap : BitVec 2 := 3

/-- `LEN_BYTES`: bytes in the length prefix. -/
abbrev lenBytes : Nat := 2

/-- `CRC_BYTES`: bytes of received checksum. -/
abbrev crcBytes : Nat := 2

/-- `RX_CAP`: capacity of the inbound data buffer (decision D15). -/
abbrev rxCap : Nat := 65535

/-- The default of `TAG_W` (decision D8), with which the words of the opcode table have 24 bits. -/
abbrev tagW : Nat := 8

/-- The OPEN control codes of decision D24, as distinct points of one unknown permutation of the
bytes: every choice of six pairwise distinct bytes is one of these, and nothing else is known of
them. DESIGN CHOICE (the form), log entry 1: safe. -/
opaque controlCode : Equiv.Perm Byte

/-- The OPEN checksum function of decision D35. Log entry 2: safe. -/
opaque checksum : Bytes → Half

/-- The OPEN duration `T_DEADLINE` of decision D9, which no rule reads. Log entry 5: safe. -/
opaque tDeadline : Nat

/-- The instance the machine runs with: OPEN values opaque, every other parameter at the default R6
gives it. DESIGN CHOICE (taking the defaults), log entry 3. -/
def params : Params where
  escCode := controlCode 0
  bidCode := controlCode 1
  ackCode := controlCode 2
  nakCode := controlCode 3
  startCode := controlCode 4
  endCode := controlCode 5
  checksum := checksum
  tagW := tagW
  tDeadline := tDeadline
  maxTxLen := ⟨65535, by decide⟩
  counterMap := .byStage
  abortSendsNak := false
  armAllWaitStates := true

end Config

/-- An event word, `16 + TAG_W` bits (30_encoding.md R81). -/
abbrev EventWord (tagW : Nat) := BitVec (16 + tagW)

end Sys2Proof
end

