-- ==== Sys2Proof/Syntax.lean ====
section
/-! DEFINITION. The block's instructions: its input events (30_encoding.md R83), one constructor per
row of spec/opcode_table.json. An ignored field of a word is no operand (R93, log entry 15). -/

namespace Sys2Proof

/-- One constructor per row of the opcode table. -/
inductive Instr where
  /-- code 0x0, class ESCAPE (43_event_instructions.md R210) -/
  | lineBidByte1
  /-- code 0x1, class BIDCODE (R211) -/
  | lineBidByte2
  /-- code 0x2, class ESCAPE (R212) -/
  | frameStartEscape
  /-- code 0x3, class STARTMARK (R213) -/
  | frameStartMarker
  /-- code 0x4, class DATA (R214); `v` is `word[15:8]` -/
  | dataByte (v : Byte)
  /-- code 0x5, class ESCAPE (R215) -/
  | frameEndEscape
  /-- code 0x6, class ENDMARK (R216) -/
  | frameEndMarker
  /-- code 0x7, class ACK (R217) -/
  | ackByte
  /-- code 0x8, class NAK (R218) -/
  | nakByte
  /-- code 0x9, class LINEERR (R219) -/
  | lineError
  /-- code 0xA, class TIMEOUT (R220); `t` is `word[16+TAG_W-1:16]`, unsigned -/
  | timeout (t : Nat)
  /-- code 0xB, class SEND (R221); `p` is carried beside the word (R86) -/
  | send (p : Bytes)
  /-- code 0xC, reserved (R92) -/
  | reservedC
  /-- code 0xD, reserved (R92) -/
  | reservedD
  /-- code 0xE, reserved (R92) -/
  | reservedE
  /-- code 0xF, reserved (R92) -/
  | reservedF
  deriving DecidableEq, Repr

/-- What EV_IN offers: an event word, as the unsigned number of its `16 + TAG_W` bits (log entry 4), with
the bytes carried beside it (R80, R86). -/
structure QueuedWord where
  word : Nat
  payload : Bytes
  deriving DecidableEq, Repr

end Sys2Proof
end

