-- ==== Sys2Proof/WellFormed.lean ====
section
/-! DEFINITION. Which instructions the spec allows a host to offer: an assigned code, a `Send`
payload within `MAX_TX_LEN` and a tag of `TAG_W` bits (30_encoding.md R81, R86, R92). The
machine gives the ill-formed ones a meaning too: a reserved code and a long payload raise a model
fault (60_exceptions.md R233), a longer tag is no current one. The same check of a word stands in
Decode.lean, beside the word's fields. -/

namespace Sys2Proof

/-- The code of a reserved row, which is no event (R92). -/
def Instr.reservedRow : Instr → Bool
  | .reservedC => true
  | .reservedD => true
  | .reservedE => true
  | .reservedF => true
  | .lineBidByte1 => false
  | .lineBidByte2 => false
  | .frameStartEscape => false
  | .frameStartMarker => false
  | .dataByte _ => false
  | .frameEndEscape => false
  | .frameEndMarker => false
  | .ackByte => false
  | .nakByte => false
  | .lineError => false
  | .timeout _ => false
  | .send _ => false

/-- The payload an instruction carries beside its word: only `Send` has one (R86). -/
def Instr.payload : Instr → Bytes
  | .send p => p
  | .lineBidByte1 => []
  | .lineBidByte2 => []
  | .frameStartEscape => []
  | .frameStartMarker => []
  | .dataByte _ => []
  | .frameEndEscape => []
  | .frameEndMarker => []
  | .ackByte => []
  | .nakByte => []
  | .lineError => []
  | .timeout _ => []
  | .reservedC => []
  | .reservedD => []
  | .reservedE => []
  | .reservedF => []

/-- The tag an instruction carries in its word: only `Timeout` has one (R81, R93). -/
def Instr.tag : Instr → Nat
  | .timeout t => t
  | .lineBidByte1 => 0
  | .lineBidByte2 => 0
  | .frameStartEscape => 0
  | .frameStartMarker => 0
  | .dataByte _ => 0
  | .frameEndEscape => 0
  | .frameEndMarker => 0
  | .ackByte => 0
  | .nakByte => 0
  | .lineError => 0
  | .send _ => 0
  | .reservedC => 0
  | .reservedD => 0
  | .reservedE => 0
  | .reservedF => 0

/-- A term a host may offer: an event of R83 (no reserved code, R92), its payload within
`MAX_TX_LEN` (R86), its tag of `TAG_W` bits (R81). -/
def Instr.wellFormed (P : Params) (i : Instr) : Bool :=
  !i.reservedRow && decide (i.payload.length ≤ P.maxTxLen.val) && decide (i.tag < 2 ^ P.tagW)

end Sys2Proof
end

