-- ==== Sys2Proof/Decode.lean ====
section
/-! DEFINITION. The event word (30_encoding.md R81 to R83, R92, R93, R97, R98): its fields, the total
decoder, and the encoder written from the same table, at any width `TAG_W` of the tag field. -/

namespace Sys2Proof

/-- `word[3:0]`, the event code (R81). -/
def EventWord.code {tagW : Nat} (w : EventWord tagW) : BitVec 4 := w.extractLsb' 0 4

/-- `word[7:4]`, reserved, must be 0 (R81, R92). -/
def EventWord.rsv {tagW : Nat} (w : EventWord tagW) : BitVec 4 := w.extractLsb' 4 4

/-- `word[15:8]`, the byte of `DataByte` (R81). -/
def EventWord.data {tagW : Nat} (w : EventWord tagW) : Byte := w.extractLsb' 8 8

/-- `word[16+TAG_W-1:16]`, the deadline generation of `Timeout` (R81). -/
def EventWord.tag {tagW : Nat} (w : EventWord tagW) : BitVec tagW := w.extractLsb' 16 tagW

/-- `{tag, data, rsv, code}`: a word from its fields (R81). -/
def EventWord.assemble {tagW : Nat} (tag : BitVec tagW) (data : Byte) (rsv code : BitVec 4) :
    EventWord tagW := (tag ++ data ++ rsv ++ code).cast (by omega)

/-- The bits of a queued word that the port has: the low `16 + TAG_W` (R80, R81; log entry 4). -/
def QueuedWord.bits (tagW : Nat) (q : QueuedWord) : EventWord tagW := BitVec.ofNat _ q.word

/-- A queued word a host may offer: of `16 + TAG_W` bits (R81), a code of R83, a zero reserved nibble
(R92), and a payload only beside a `Send` word, within `MAX_TX_LEN` (R86). The engine takes the others
too: they raise a model fault, or, for a stray payload, are read without it (log entry 20). -/
def QueuedWord.wellFormed (P : Params) (q : QueuedWord) : Bool :=
  decide (q.word < 2 ^ (16 + P.tagW))
    && decide ((q.bits P.tagW).code < 0xC#4)
    && (q.bits P.tagW).rsv == 0
    && ((q.bits P.tagW).code == 0xB#4 || q.payload.isEmpty)
    && decide (q.payload.length ≤ P.maxTxLen.val)

/-- Why the decoder refuses a word: the one kind of word that no row of the table matches. -/
inductive DecodeError where
  /-- a code of R83 with a nonzero reserved nibble (R92) -/
  | reservedBits
  deriving DecidableEq, Repr

/-- The event of a code (R83), with its operands; the payload is read for `Send` only (R86). -/
def eventOf (code : BitVec 4) (data : Byte) (tag : Nat) (payload : Bytes) : Instr :=
  match code.toNat with
  | 0x0 => .lineBidByte1
  | 0x1 => .lineBidByte2
  | 0x2 => .frameStartEscape
  | 0x3 => .frameStartMarker
  | 0x4 => .dataByte data
  | 0x5 => .frameEndEscape
  | 0x6 => .frameEndMarker
  | 0x7 => .ackByte
  | 0x8 => .nakByte
  | 0x9 => .lineError
  | 0xA => .timeout tag
  | 0xB => .send payload
  | 0xC => .reservedC
  | 0xD => .reservedD
  | 0xE => .reservedE
  | _ => .reservedF

/-- Decoding is total: every word is an event, a reserved-code word or a reserved-bits word (R98).
The code check comes before the reserved-bits check (R92, R235). -/
def decode (tagW : Nat) (w : EventWord tagW) (payload : Bytes) : Except DecodeError Instr :=
  if 0xC#4 ≤ w.code then .ok (eventOf w.code w.data w.tag.toNat payload)
  else if w.rsv ≠ 0 then .error .reservedBits
  else .ok (eventOf w.code w.data w.tag.toNat payload)

/-- What the engine reads from a queued word (40_engine_core.md R110). -/
def decodeQueued (tagW : Nat) (q : QueuedWord) : Except DecodeError Instr :=
  decode tagW (q.bits tagW) q.payload

/-- The code of an instruction (R83, and R92 for the reserved rows). -/
def Instr.code : Instr → BitVec 4
  | .lineBidByte1 => 0x0
  | .lineBidByte2 => 0x1
  | .frameStartEscape => 0x2
  | .frameStartMarker => 0x3
  | .dataByte _ => 0x4
  | .frameEndEscape => 0x5
  | .frameEndMarker => 0x6
  | .ackByte => 0x7
  | .nakByte => 0x8
  | .lineError => 0x9
  | .timeout _ => 0xA
  | .send _ => 0xB
  | .reservedC => 0xC
  | .reservedD => 0xD
  | .reservedE => 0xE
  | .reservedF => 0xF

/-- The word of an instruction, its ignored fields zero (R81, R87). -/
def encodeWord (tagW : Nat) (i : Instr) : EventWord tagW :=
  match i with
  | .dataByte v => EventWord.assemble 0 v 0 i.code
  | .timeout t => EventWord.assemble (BitVec.ofNat tagW t) 0 0 i.code
  | .lineBidByte1 => EventWord.assemble 0 0 0 i.code
  | .lineBidByte2 => EventWord.assemble 0 0 0 i.code
  | .frameStartEscape => EventWord.assemble 0 0 0 i.code
  | .frameStartMarker => EventWord.assemble 0 0 0 i.code
  | .frameEndEscape => EventWord.assemble 0 0 0 i.code
  | .frameEndMarker => EventWord.assemble 0 0 0 i.code
  | .ackByte => EventWord.assemble 0 0 0 i.code
  | .nakByte => EventWord.assemble 0 0 0 i.code
  | .lineError => EventWord.assemble 0 0 0 i.code
  | .send _ => EventWord.assemble 0 0 0 i.code
  | .reservedC => EventWord.assemble 0 0 0 i.code
  | .reservedD => EventWord.assemble 0 0 0 i.code
  | .reservedE => EventWord.assemble 0 0 0 i.code
  | .reservedF => EventWord.assemble 0 0 0 i.code

/-- What a host puts on EV_IN for an instruction: its word, and the payload of `Send` (R86). -/
def encode (tagW : Nat) (i : Instr) : QueuedWord := ⟨(encodeWord tagW i).toNat, i.payload⟩

/-- The instruction of a table row's bits, at the width of the table's words. The block's input is one
event word and no byte layout (R81, R97), so the bits are the word; a `Send` word without a payload
is `Send([])` (R86). -/
def decodeTableWord (nbits w : Nat) : Option Instr :=
  match decodeQueued Config.tagW ⟨w % 2 ^ nbits, []⟩ with
  | .ok i => some i
  | .error _ => none

end Sys2Proof
end

