-- ==== Sys2Proof/Machine/State.lean ====
section
/-! DEFINITION. What the machine holds: the registers of 10_state.md R39, the buffer spaces of
20_memory.md R60, the environment the model carries (R37), the reasons a step can stop, and the
state after reset (70_reset_and_hazards.md R260). -/

namespace Sys2Proof.Machine

/-- The 16 states of 10_state.md R22, in the order of their codes (30_encoding.md R88). -/
inductive EngineState where
  | idle
  | bidWait
  | frameSync
  | frameStart
  | lengthField
  | payload
  | frameEndEscape
  | frameEnd
  | checksum
  | checksumCheck
  | bidSend
  | bidAckWait
  | bidAck
  | transmit
  | frameAckWait
  | frameAck
  deriving DecidableEq, Repr

/-- A 2-byte buffer, addresses 0 and 1: `lenbuf` (space RXLEN) and `crcbuf` (space RXCRC), R60. -/
structure TwoBytes where
  at0 : Byte
  at1 : Byte
  deriving DecidableEq, Repr

/-- A byte buffer: (address, byte) pairs with strictly rising addresses. An address that is not listed
reads as `unwrittenByte` of Ops.lean, the value named for it after reset (log entry 7). -/
abbrev Memory := List Host.Cell

/-- The four buffer spaces of R60. -/
inductive Space where
  | rxLen
  | rxData
  | rxCrc
  | txp
  deriving DecidableEq, Repr

/-- The outcome of a status effect (R95). -/
inductive TxOutcome where
  | transmissionComplete
  | transmissionFailure
  deriving DecidableEq, Repr

/-- The three effects of 30_encoding.md R95. -/
inductive Effect where
  /-- `SEND(bytes)`: wire bytes -/
  | sendBytes (bytes : Bytes)
  /-- `FRAME(bytes)`: a validated inbound payload -/
  | frame (bytes : Bytes)
  /-- `STATUS(outcome)` -/
  | status (outcome : TxOutcome)
  deriving DecidableEq, Repr

/-- What may happen next at the block's boundary, between two engine steps: the agents of R37, R236
to R238, R251 and R260 (log entry 11). -/
inductive Move where
  /-- a producer appends a word to the serialized path's tail (R237) -/
  | offer (q : QueuedWord)
  /-- the Deadline agent's step (R238) -/
  | fire
  /-- RESET is asserted (R260) -/
  | reset
  /-- the engine takes the word at the path's head (R110) -/
  | deliver
  deriving DecidableEq, Repr

/-- The machine's state: the registers of R39, then the environment of R37. -/
structure State where
  /-- EngineState (R22) -/
  state : EngineState
  /-- handshake-escape retries (R25) -/
  c0 : BitVec 2
  /-- full-ack retries (R26) -/
  c1 : BitVec 2
  /-- a deadline is outstanding (R28) -/
  dlArmed : Bool
  /-- the generation of the current or most recent arming (R28): `TAG_W` bits,
  a parameter, so an unsigned number below `2^TAG_W` (log entry 4) -/
  dlTag : Nat
  /-- the Deadline agent has fired for the current arming (R28) -/
  dlFired : Bool
  /-- length bytes held (R30) -/
  lenCount : BitVec 2
  /-- the length prefix, space RXLEN (R30) -/
  lenbuf : TwoBytes
  /-- the parsed length (R30) -/
  rxLen : Half
  /-- payload bytes held (R30) -/
  dataCount : Half
  /-- the inbound payload, space RXDATA (R30) -/
  databuf : Memory
  /-- checksum bytes held (R30) -/
  crcCount : BitVec 2
  /-- the received checksum, space RXCRC (R30) -/
  crcbuf : TwoBytes
  /-- a payload is pending (R32) -/
  pfValid : Bool
  /-- its length (R32) -/
  pfLen : Half
  /-- its bytes, space TXP (R32) -/
  pfBytes : Memory
  /-- the sticky model fault register (R33) -/
  fault : BitVec 4
  /-- environment: the serialized delivery path, head first (R37, R237) -/
  fifo : List QueuedWord
  /-- environment: everything put on EFF_OUT, oldest first (R37, R73) -/
  effects : List Effect
  /-- environment: the moves already decided on; with none left the engine takes its next word
  (the model's own field, log entry 11) -/
  sched : List Move
  deriving DecidableEq, Repr

/-- Why the machine stops. None is reachable from a state that satisfies the invariant of
Safety.lean; each is safe, since the machine says nothing about such a run (log entries 8, 9). -/
inductive Fault where
  /-- an event was taken while the state register held a transient state, which R23 says is never
  held between steps; raised by `transition`; safe -/
  | notResting
  /-- a buffer access outside the space's range of R60; raised by the buffer accesses; safe -/
  | outsideSpace (sp : Space)
  /-- Transmit was entered with `pf_valid = 0` (R190 reads it as 1, R39); raised by
  `enterTransmit`; safe -/
  | noPendingFrame
  deriving DecidableEq, Repr

/-- Why an instruction has no meaning in the model. -/
inductive Refusal where
  /-- an arm of `exec` whose instruction is not modelled yet; raised by no arm now; safe -/
  | notModelled (mnemonic : String)
  deriving DecidableEq, Repr

/-- The state right after reset (R260, R39). `lenbuf`, `rxLen`, `crcbuf` and `pfLen` have no reset
value in the spec: 0, DESIGN CHOICE, log entry 6. `databuf` and `pfBytes` have none either: every byte
of them is `unwrittenByte`, DESIGN CHOICE, log entry 7. The environment is empty (log entry 11). -/
def State.reset : State where
  state := .idle
  c0 := 0
  c1 := 0
  dlArmed := false
  dlTag := 0
  dlFired := false
  lenCount := 0
  lenbuf := ⟨0, 0⟩
  rxLen := 0
  dataCount := 0
  databuf := []
  crcCount := 0
  crcbuf := ⟨0, 0⟩
  pfValid := false
  pfLen := 0
  pfBytes := []
  fault := 0
  fifo := []
  effects := []
  sched := []

/-- What one step answers. -/
abbrev Result := Host.Outcome State Fault Refusal

end Sys2Proof.Machine
end

