-- ==== Sys2Proof/Machine/Operands.lean ====
section
/-! DEFINITION. What the rules are written over besides registers: event classes (30_encoding.md R84,
R85), wire sequences (R91), the effect record (R95), the state and role codes (R88, R90). -/

namespace Sys2Proof.Machine

/-- The class of an event (R83, R84), with the operand a transition rule reads. `timeout` is a VALID
`Timeout`: a stale one reaches no transition rule (40_engine_core.md R119). -/
inductive EventClass where
  | escape
  | bidCode
  | startMark
  | data (v : Byte)
  | endMark
  | ack
  | nak
  | lineErr
  | timeout
  deriving DecidableEq, Repr

/-- `ACK_SEQ = [ESC_CODE, ACK_CODE]` (R91). -/
def ackSeq (P : Params) : Bytes := [P.escCode, P.ackCode]

/-- `NAK_SEQ = [ESC_CODE, NAK_CODE]` (R91). -/
def nakSeq (P : Params) : Bytes := [P.escCode, P.nakCode]

/-- `BID_SEQ = [ESC_CODE, BID_CODE]` (R91). -/
def bidSeq (P : Params) : Bytes := [P.escCode, P.bidCode]

/-- `END_SEQ = [ESC_CODE, END_CODE]`: emitted by no rule, the tail of the checksum input (R91,
20_memory.md R65). -/
def endSeq (P : Params) : Bytes := [P.escCode, P.endCode]

/-- The six control codes (00_scope.md R6). -/
def controlCodes (P : Params) : Bytes :=
  [P.escCode, P.bidCode, P.ackCode, P.nakCode, P.startCode, P.endCode]

/-- The six control codes must be pairwise distinct (60_exceptions.md R247, decision D24). -/
abbrev CodesDistinct (P : Params) : Prop := (controlCodes P).Nodup

/-- The fixed layout of an effect on EFF_OUT (R95). -/
structure EffectRecord where
  kind : BitVec 2
  len : Half
  bytes : Bytes
  outcome : BitVec 1
  deriving DecidableEq, Repr

/-- The outcome bit: 0 complete, 1 failure (R95). -/
def TxOutcome.bit : TxOutcome → BitVec 1
  | .transmissionComplete => 0
  | .transmissionFailure => 1

/-- The record of an effect: `kind` 1 send-bytes, 2 frame, 3 status; `len` and `outcome` are 0 where
the kind has none (R95). -/
def Effect.record : Effect → EffectRecord
  | .sendBytes bs => ⟨1, BitVec.ofNat 16 bs.length, bs, 0⟩
  | .frame bs => ⟨2, BitVec.ofNat 16 bs.length, bs, 0⟩
  | .status o => ⟨3, 0, [], o.bit⟩

/-- The bytes an effect puts on the wire (R66, R73). -/
def Effect.wireBytes : Effect → Bytes
  | .sendBytes bs => bs
  | .frame _ => []
  | .status _ => []

/-- The 4-bit code of a state (R88). -/
def EngineState.code : EngineState → BitVec 4
  | .idle => 0x0
  | .bidWait => 0x1
  | .frameSync => 0x2
  | .frameStart => 0x3
  | .lengthField => 0x4
  | .payload => 0x5
  | .frameEndEscape => 0x6
  | .frameEnd => 0x7
  | .checksum => 0x8
  | .checksumCheck => 0x9
  | .bidSend => 0xA
  | .bidAckWait => 0xB
  | .bidAck => 0xC
  | .transmit => 0xD
  | .frameAckWait => 0xE
  | .frameAck => 0xF

/-- BidSend, Transmit and ChecksumCheck are transient (10_state.md R23, 40_engine_core.md R113). -/
def EngineState.transient : EngineState → Bool
  | .idle => false
  | .bidWait => false
  | .frameSync => false
  | .frameStart => false
  | .lengthField => false
  | .payload => false
  | .frameEndEscape => false
  | .frameEnd => false
  | .checksum => false
  | .checksumCheck => true
  | .bidSend => true
  | .bidAckWait => false
  | .bidAck => false
  | .transmit => true
  | .frameAckWait => false
  | .frameAck => false

/-- The 13 resting states (R23). -/
def EngineState.resting (S : EngineState) : Bool := !S.transient

/-- The role of the block (10_state.md R24). -/
inductive Role where
  | none
  | responder
  | initiator
  deriving DecidableEq, Repr

/-- The role is a function of the state (R24). -/
def EngineState.role : EngineState → Role
  | .idle => .none
  | .bidWait => .responder
  | .frameSync => .responder
  | .frameStart => .responder
  | .lengthField => .responder
  | .payload => .responder
  | .frameEndEscape => .responder
  | .frameEnd => .responder
  | .checksum => .responder
  | .checksumCheck => .responder
  | .bidSend => .initiator
  | .bidAckWait => .initiator
  | .bidAck => .initiator
  | .transmit => .initiator
  | .frameAckWait => .initiator
  | .frameAck => .initiator

/-- The value of the `role` output: 0, 1 or 2 (R34, R90). -/
def Role.code : Role → BitVec 2
  | .none => 0
  | .responder => 1
  | .initiator => 2

/-- The states in which every received byte is data (R34). -/
def EngineState.collecting : EngineState → Bool
  | .lengthField => true
  | .payload => true
  | .checksum => true
  | .idle => false
  | .bidWait => false
  | .frameSync => false
  | .frameStart => false
  | .frameEndEscape => false
  | .frameEnd => false
  | .checksumCheck => false
  | .bidSend => false
  | .bidAckWait => false
  | .bidAck => false
  | .transmit => false
  | .frameAckWait => false
  | .frameAck => false

end Sys2Proof.Machine
end

