-- ==== Sys2Proof/Machine/Flags.lean ====
section
/-! DEFINITION. The status outputs of 10_state.md R34, each a function of the registers; the block has no
other flags (R35). And what the environment reads off the effect stream (20_memory.md R66, R73). -/

namespace Sys2Proof.Machine

/-- `state_out[3:0]` (R34). -/
def State.stateOut (s : State) : BitVec 4 := s.state.code

/-- `role[1:0]` (R34). -/
def State.roleOut (s : State) : BitVec 2 := s.state.role.code

/-- `collecting` (R34). -/
def State.collecting (s : State) : Bool := s.state.collecting

/-- `send_ready`: the only condition under which `Send` is defined (R34). -/
def State.sendReady (s : State) : Bool := s.state == .idle && s.fault == 0

/-- `faulted` (R34). -/
def State.faulted (s : State) : Bool := s.fault != 0

/-- Every byte put on the wire so far, in order (R66, R73). -/
def State.wire (s : State) : Bytes := s.effects.flatMap Effect.wireBytes

end Sys2Proof.Machine
end

