-- ==== Sys2Proof/Machine/Ops.lean ====
section
/-! DEFINITION. The named operations the rules share: buffer accesses (20_memory.md R60), effects, model
faults (60_exceptions.md R233), state entry and the Deadline (40_engine_core.md R113 to R119), the
named actions (R115, R117, R120, R121) and the transient states (R114). Each takes the parameters
as an argument where its rule reads one. -/

namespace Sys2Proof.Machine

/-! ### Buffers -/

/-- What a buffer byte that is not listed reads as: every byte of `databuf` and `pf_bytes` after reset,
whose contents the spec leaves unspecified (10_state.md R39). DESIGN CHOICE, log entry 7: unsafe. -/
def unwrittenByte : Byte := 0x00

/-- The byte at an address. -/
def Memory.read : Memory → Nat → Byte
  | [], _ => unwrittenByte
  | (a, b) :: m, x => if a = x then b else Memory.read m x

/-- An address no longer listed. -/
def Memory.erase (m : Memory) (x : Nat) : Memory := m.filter fun c => c.1 != x

/-- An address listed with a byte, the addresses kept strictly rising. -/
def Memory.insert : Memory → Nat → Byte → Memory
  | [], x, v => [(x, v)]
  | (a, b) :: m, x, v =>
    if x < a then (x, v) :: (a, b) :: m
    else if x = a then (x, v) :: m
    else (a, b) :: Memory.insert m x v

/-- One byte written; a byte that an unlisted address reads as anyway is not listed. -/
def Memory.write (m : Memory) (x : Nat) (v : Byte) : Memory :=
  if v = unwrittenByte then Memory.erase m x else Memory.insert m x v

/-- Consecutive bytes written from an address up. -/
def Memory.writeSeq : Memory → Nat → Bytes → Memory
  | m, _, [] => m
  | m, x, v :: vs => Memory.writeSeq (Memory.write m x v) (x + 1) vs

/-- The canonical form: addresses strictly rising, no byte listed that an unlisted address reads as. -/
def Memory.wf : Memory → Bool
  | [] => true
  | (a, b) :: m => b != unwrittenByte && m.all (fun c => decide (a < c.1)) && Memory.wf m

/-- The size of a space in bytes (R60). -/
def Space.size (P : Params) : Space → Nat
  | .rxLen => Config.lenBytes
  | .rxData => Config.rxCap
  | .rxCrc => Config.crcBytes
  | .txp => P.maxTxLen.val

/-- `n` consecutive bytes read from an address up. -/
def Memory.readSeq (m : Memory) : Nat → Nat → Bytes
  | _, 0 => []
  | x, n + 1 => Memory.read m x :: Memory.readSeq m (x + 1) n

/-- `MemRead(sp, 0, n)`, the only read the block makes (R60). -/
def memRead (P : Params) (sp : Space) (m : Memory) (n : Nat) : Except Fault Bytes :=
  if sp.size P < n then .error (.outsideSpace sp) else .ok (Memory.readSeq m 0 n)

/-- `MemWrite(sp, addr, 1, v)`; no value for an address outside the space (R60). -/
def memWrite (P : Params) (sp : Space) (m : Memory) (addr : Nat) (v : Byte) : Option Memory :=
  if addr < sp.size P then some (Memory.write m addr v) else none

/-- `MemWrite` to a 2-byte space; no value for an address other than 0 and 1 (R60). -/
def TwoBytes.write (b : TwoBytes) (addr : Nat) (v : Byte) : Option TwoBytes :=
  match addr with
  | 0 => some { b with at0 := v }
  | 1 => some { b with at1 := v }
  | _ + 2 => none

/-- `MemRead` of both bytes of a 2-byte space. -/
def TwoBytes.bytes (b : TwoBytes) : Bytes := [b.at0, b.at1]

/-- Big-endian: the byte at 0 is the high byte, as in the length prefix (R63). -/
def TwoBytes.bigEndian (b : TwoBytes) : Half := (b.at0 ++ b.at1).cast (by decide)

/-- Little-endian: the byte at 0 is the low byte, as in the received checksum (R64). -/
def TwoBytes.littleEndian (b : TwoBytes) : Half := (b.at1 ++ b.at0).cast (by decide)

/-! ### Effects and model faults -/

/-- `emit(e)`: appended to the ordered effects (00_scope.md R9, 30_encoding.md R95). -/
def emit (e : Effect) (s : State) : State := { s with effects := s.effects ++ [e] }

/-- The four model faults (60_exceptions.md R233). -/
inductive FaultCode where
  | sendNotIdle
  | rsvCode
  | rsvBits
  | txTooLong
  deriving DecidableEq, Repr

/-- The bit of the fault register a code sets (10_state.md R33). -/
def FaultCode.mask : FaultCode → BitVec 4
  | .sendNotIdle => 0b0001
  | .rsvCode => 0b0010
  | .rsvBits => 0b0100
  | .txTooLong => 0b1000

/-- `raise Fault(code)`: the bit is set, no other register changes, nothing is emitted (R233). -/
def raiseFault (c : FaultCode) (s : State) : State := { s with fault := s.fault ||| c.mask }

/-! ### State entry and the Deadline -/

/-- The states whose entry arms the Deadline (40_engine_core.md R116). -/
def arming (P : Params) : EngineState → Bool
  | .bidWait => true
  | .frameSync => true
  | .lengthField => true
  | .payload => true
  | .checksum => true
  | .bidAckWait => true
  | .bidAck => true
  | .frameAckWait => true
  | .frameAck => true
  | .frameStart => P.armAllWaitStates
  | .frameEndEscape => P.armAllWaitStates
  | .frameEnd => P.armAllWaitStates
  | .idle => false
  | .checksumCheck => false
  | .bidSend => false
  | .transmit => false

/-- `deadline_enter(S)` (R118): the prior arming is cancelled before the new one is made. -/
def deadlineEnter (P : Params) (S : EngineState) (s : State) : State :=
  if arming P S then { s with dlTag := (s.dlTag + 1) % 2 ^ P.tagW, dlArmed := true, dlFired := false }
  else { s with dlArmed := false, dlFired := false }

/-- `assembly_reset()` (41_responder.md R148); the buffers keep their contents. -/
def assemblyReset (s : State) : State :=
  { s with lenCount := 0, dataCount := 0, crcCount := 0 }

/-- `idle_entry()` (R115); `dl_tag` is not changed. -/
def idleEntry (s : State) : State :=
  { s with
    state := .idle
    c0 := 0
    c1 := 0
    pfValid := false
    lenCount := 0
    dataCount := 0
    crcCount := 0
    dlArmed := false
    dlFired := false }

/-- The last arm of `enter(S)`, for a resting state other than Idle (R113). -/
def enterResting (P : Params) (S : EngineState) (s : State) : State :=
  let s' := deadlineEnter P S { s with state := S }
  if S = .frameStart then assemblyReset s' else s'

/-- nak-and-resync (R120); no counter is read or written. -/
def nakAndResync (P : Params) (s : State) : State :=
  enterResting P .frameSync (emit (.sendBytes (nakSeq P)) s)

/-- abort-with-nak (R121): on the wire only when `ABORT_SENDS_NAK`. -/
def abortWithNak (P : Params) (s : State) : State :=
  idleEntry (if P.abortSendsNak then emit (.sendBytes (nakSeq P)) s else s)

/-- Entry to BidSend (42_initiator.md R182). -/
def enterBidSend (P : Params) (s : State) : State :=
  enterResting P .bidAckWait (emit (.sendBytes (bidSeq P)) s)

/-- Entry to Transmit (42_initiator.md R190): the pending payload as `Send` gave it. Its rule reads
`pf_valid` as 1; a state in which it is 0 stops (log entry 9). -/
def enterTransmit (P : Params) (s : State) : Result :=
  if s.pfValid then
    match memRead P .txp s.pfBytes s.pfLen.toNat with
    | .error f => .fault f
    | .ok bs => .next (enterResting P .frameAckWait (emit (.sendBytes bs) s))
  else .fault .noPendingFrame

/-- The bytes the Checksum Service is given: length prefix, payload, end escape, end marker
(20_memory.md R65). -/
def checksumInput (P : Params) (lenbuf : TwoBytes) (payload : Bytes) : Bytes :=
  lenbuf.bytes ++ payload ++ endSeq P

/-- Entry to ChecksumCheck (41_responder.md R166): the acknowledge comes before the frame. -/
def enterChecksumCheck (P : Params) (s : State) : Result :=
  match memRead P .rxData s.databuf s.rxLen.toNat with
  | .error f => .fault f
  | .ok payload =>
    if P.checksum (checksumInput P s.lenbuf payload) = s.crcbuf.littleEndian then
      .next (idleEntry (emit (.frame payload) (emit (.sendBytes (ackSeq P)) s)))
    else .next (nakAndResync P s)

/-- `enter(S)`, the only writer of `state` (R113, R114). -/
def enter (P : Params) (S : EngineState) (s : State) : Result :=
  match S with
  | .idle => .next (idleEntry s)
  | .bidSend => .next (enterBidSend P s)
  | .transmit => enterTransmit P s
  | .checksumCheck => enterChecksumCheck P s
  | .bidWait => .next (enterResting P .bidWait s)
  | .frameSync => .next (enterResting P .frameSync s)
  | .frameStart => .next (enterResting P .frameStart s)
  | .lengthField => .next (enterResting P .lengthField s)
  | .payload => .next (enterResting P .payload s)
  | .frameEndEscape => .next (enterResting P .frameEndEscape s)
  | .frameEnd => .next (enterResting P .frameEnd s)
  | .checksum => .next (enterResting P .checksum s)
  | .bidAckWait => .next (enterResting P .bidAckWait s)
  | .bidAck => .next (enterResting P .bidAck s)
  | .frameAckWait => .next (enterResting P .frameAckWait s)
  | .frameAck => .next (enterResting P .frameAck s)

/-- A `Timeout(t)` is valid when armed, fired and of the current tag (R119). -/
def timeoutValid (t : Nat) (s : State) : Bool := s.dlArmed && s.dlFired && t == s.dlTag

/-! ### Bounded retry -/

/-- The two retry counters (10_state.md R25, R26). -/
inductive Counter where
  | c0
  | c1
  deriving DecidableEq, Repr

/-- The value of a counter. -/
def Counter.read : Counter → State → BitVec 2
  | .c0, s => s.c0
  | .c1, s => s.c1

/-- A counter written; the other keeps its value (R26). -/
def Counter.write : Counter → BitVec 2 → State → State
  | .c0, v, s => { s with c0 := v }
  | .c1, v, s => { s with c1 := v }

/-- The four bounded-retry actions of 42_initiator.md R180. -/
inductive RetryAction where
  | bid
  | handshake
  | frameHandshake
  | frameAck
  deriving DecidableEq, Repr

/-- The counter a retry action increments, under either map (R180). -/
def RetryAction.counter (m : CounterMap) : RetryAction → Counter
  | .bid => .c0
  | .handshake => match m with
    | .byStage => .c1
    | .byPhase => .c0
  | .frameHandshake => match m with
    | .byStage => .c0
    | .byPhase => .c1
  | .frameAck => .c1

/-- The state a retry action restarts at (R180). -/
def RetryAction.target : RetryAction → EngineState
  | .bid => .bidSend
  | .handshake => .bidSend
  | .frameHandshake => .transmit
  | .frameAck => .transmit

/-- `retry(ctr, T)` (40_engine_core.md R117). -/
def retry (P : Params) (a : RetryAction) (s : State) : Result :=
  let ctr := a.counter P.counterMap
  let n := ctr.read s + 1
  let s' := ctr.write n s
  if n < Config.retryCap then enter P a.target s'
  else enter P .idle (emit (.status .transmissionFailure) s')

/-! ### Pending frame -/

/-- `Send(p)` stores the payload (R122, 10_state.md R32). -/
def storePending (p : Bytes) (s : State) : State :=
  { s with
    pfBytes := Memory.writeSeq s.pfBytes 0 p
    pfLen := BitVec.ofNat 16 p.length
    pfValid := true }

end Sys2Proof.Machine
end

