-- ==== Sys2Proof/Machine/Agents.lean ====
section
/-! DEFINITION. The agents of a run and what each does in its step: the engine taking a word
(40_engine_core.md R110), the Deadline agent (60_exceptions.md R238), the producers of the
serialized path (R237), RESET (70_reset_and_hazards.md R260). The engine's step is written over
any parameters and any dispatch of instructions, so that the machine's own and the one under other parameters share it. -/

namespace Sys2Proof.Machine

/-- A word joins the tail of the serialized path: arrival order kept, none lost or merged (R237). -/
def offerWord (q : QueuedWord) (s : State) : State := { s with fifo := s.fifo ++ [q] }

/-- The word `FIRE` appends (R87, R238). -/
def timeoutWord (tagW : Nat) (t : Nat) : QueuedWord :=
  ⟨(EventWord.assemble (BitVec.ofNat tagW t) 0 0 0xA).toNat, []⟩

/-- `FIRE` is enabled (R238). -/
def fireEnabled (s : State) : Bool := s.dlArmed && !s.dlFired && s.fault == 0

/-- The Deadline agent's step (R238); where it is not enabled nothing happens (log entry 11). -/
def fireDeadline (P : Params) (s : State) : State :=
  if fireEnabled s then offerWord (timeoutWord P.tagW s.dlTag) { s with dlFired := true } else s

/-- RESET asserted (R260): every register at its reset value. The serialized path is outside the block
and is not emptied (R262); nothing is emitted. -/
def assertReset (s : State) : State :=
  { State.reset with fifo := s.fifo, effects := s.effects, sched := s.sched }

/-- The engine's step on the path's head (R110): none while `fault != 0` (R234), none while the path
is empty (70_reset_and_hazards.md R271); a reserved-bits word raises its fault (R92). -/
def takeWord (P : Params) (run : Instr → State → Result) (s : State) : Result :=
  if s.fault ≠ 0 then .next s
  else match s.fifo with
    | [] => .next s
    | q :: rest =>
      match decodeQueued P.tagW q with
      | .error .reservedBits => .next (raiseFault .rsvBits { s with fifo := rest })
      | .ok i => run i { s with fifo := rest }

/-- One move of one agent (R236, R270): the next one decided on, or the engine's. -/
def stepBy (P : Params) (run : Instr → State → Result) (s : State) : Result :=
  match s.sched with
  | [] => takeWord P run s
  | .deliver :: ms => takeWord P run { s with sched := ms }
  | .offer q :: ms => .next (offerWord q { s with sched := ms })
  | .fire :: ms => .next (fireDeadline P { s with sched := ms })
  | .reset :: ms => .next (assertReset { s with sched := ms })

/-- A state whose next step takes exactly the given word: the word at the path's head, the engine's
move first, the block not faulted (R110, R234). -/
def placeWord (q : QueuedWord) (s : State) : State :=
  { s with fifo := q :: s.fifo, sched := .deliver :: s.sched, fault := 0 }

end Sys2Proof.Machine
end

