-- ==== Sys2Proof/Machine/Transitions.lean ====
section
/-! DEFINITION. The transition rules, one definition per resting state and one arm per event class, as the
rows of 43_event_instructions.md R222: Idle (40_engine_core.md R123 to R126), the responder
(41_responder.md R141 to R166), the initiator (42_initiator.md R183 to R197). -/

namespace Sys2Proof.Machine

/-- The stay arm (40_engine_core.md R125): nothing changes, the Deadline keeps running. -/
def stay (s : State) : Result := .next s

/-- Idle (R123, R124, R125). No valid `Timeout` occurs here (R126); by the general rule of R112 an
event without an arm stays. -/
def idleOn (P : Params) (c : EventClass) (s : State) : Result :=
  match c with
  | .escape => enter P .bidWait s
  | .bidCode => stay s
  | .startMark => stay s
  | .data _ => stay s
  | .endMark => stay s
  | .ack => stay s
  | .nak => stay s
  | .lineErr => .next (abortWithNak P s)
  | .timeout => stay s

/-- BidWait (41_responder.md R141, R142, R143). -/
def bidWaitOn (P : Params) (c : EventClass) (s : State) : Result :=
  match c with
  | .escape => enter P .idle s
  | .bidCode => enter P .frameSync (emit (.sendBytes (ackSeq P)) s)
  | .startMark => enter P .idle s
  | .data _ => enter P .idle s
  | .endMark => enter P .idle s
  | .ack => enter P .idle s
  | .nak => enter P .idle s
  | .lineErr => .next (abortWithNak P s)
  | .timeout => .next (abortWithNak P s)

/-- FrameSync (R144 to R147). The timeout is silent under either `ABORT_SENDS_NAK` (R145). -/
def frameSyncOn (P : Params) (c : EventClass) (s : State) : Result :=
  match c with
  | .escape => enter P .frameStart s
  | .bidCode => enter P .bidWait s
  | .startMark => enter P .bidWait s
  | .data _ => enter P .bidWait s
  | .endMark => enter P .bidWait s
  | .ack => enter P .bidWait s
  | .nak => enter P .bidWait s
  | .lineErr => .next (abortWithNak P s)
  | .timeout => enter P .idle s

/-- FrameStart (R149 to R152). -/
def frameStartOn (P : Params) (c : EventClass) (s : State) : Result :=
  match c with
  | .escape => enter P .frameSync s
  | .bidCode => enter P .frameSync (emit (.sendBytes (ackSeq P)) s)
  | .startMark => enter P .lengthField s
  | .data _ => .next (nakAndResync P s)
  | .endMark => .next (nakAndResync P s)
  | .ack => .next (nakAndResync P s)
  | .nak => .next (nakAndResync P s)
  | .lineErr => .next (nakAndResync P s)
  | .timeout => .next (nakAndResync P s)

/-- A length byte (R153): on the second, the length is parsed and a zero length skips Payload. -/
def lengthByte (P : Params) (v : Byte) (s : State) : Result :=
  match s.lenbuf.write s.lenCount.toNat v with
  | none => .fault (.outsideSpace .rxLen)
  | some lb =>
    let s' := { s with lenbuf := lb, lenCount := s.lenCount + 1 }
    if s.lenCount + 1 = 2 then
      if lb.bigEndian = 0 then enter P .frameEndEscape { s' with rxLen := lb.bigEndian }
      else enter P .payload { s' with rxLen := lb.bigEndian }
    else .next s'

/-- LengthField (R153, R154, R155). -/
def lengthFieldOn (P : Params) (c : EventClass) (s : State) : Result :=
  match c with
  | .escape => stay s
  | .bidCode => stay s
  | .startMark => stay s
  | .data v => lengthByte P v s
  | .endMark => stay s
  | .ack => stay s
  | .nak => stay s
  | .lineErr => .next (nakAndResync P s)
  | .timeout => .next (nakAndResync P s)

/-- A payload byte (R156). -/
def payloadByte (P : Params) (v : Byte) (s : State) : Result :=
  match memWrite P .rxData s.databuf s.dataCount.toNat v with
  | none => .fault (.outsideSpace .rxData)
  | some m =>
    let s' := { s with databuf := m, dataCount := s.dataCount + 1 }
    if s.dataCount + 1 = s.rxLen then enter P .frameEndEscape s' else .next s'

/-- Payload (R156, R157, R158). -/
def payloadOn (P : Params) (c : EventClass) (s : State) : Result :=
  match c with
  | .escape => stay s
  | .bidCode => stay s
  | .startMark => stay s
  | .data v => payloadByte P v s
  | .endMark => stay s
  | .ack => stay s
  | .nak => stay s
  | .lineErr => .next (nakAndResync P s)
  | .timeout => .next (nakAndResync P s)

/-- FrameEndEscape (R159, R160). -/
def frameEndEscapeOn (P : Params) (c : EventClass) (s : State) : Result :=
  match c with
  | .escape => enter P .frameEnd s
  | .bidCode => .next (nakAndResync P s)
  | .startMark => .next (nakAndResync P s)
  | .data _ => .next (nakAndResync P s)
  | .endMark => .next (nakAndResync P s)
  | .ack => .next (nakAndResync P s)
  | .nak => .next (nakAndResync P s)
  | .lineErr => .next (nakAndResync P s)
  | .timeout => .next (nakAndResync P s)

/-- FrameEnd (R161, R162). -/
def frameEndOn (P : Params) (c : EventClass) (s : State) : Result :=
  match c with
  | .escape => .next (nakAndResync P s)
  | .bidCode => .next (nakAndResync P s)
  | .startMark => .next (nakAndResync P s)
  | .data _ => .next (nakAndResync P s)
  | .endMark => enter P .checksum s
  | .ack => .next (nakAndResync P s)
  | .nak => .next (nakAndResync P s)
  | .lineErr => .next (nakAndResync P s)
  | .timeout => .next (nakAndResync P s)

/-- A checksum byte (R163): the second one enters ChecksumCheck in the same step. -/
def checksumByte (P : Params) (v : Byte) (s : State) : Result :=
  match s.crcbuf.write s.crcCount.toNat v with
  | none => .fault (.outsideSpace .rxCrc)
  | some cb =>
    let s' := { s with crcbuf := cb, crcCount := s.crcCount + 1 }
    if s.crcCount + 1 = 2 then enter P .checksumCheck s' else .next s'

/-- Checksum (R163, R164, R165). -/
def checksumOn (P : Params) (c : EventClass) (s : State) : Result :=
  match c with
  | .escape => stay s
  | .bidCode => stay s
  | .startMark => stay s
  | .data v => checksumByte P v s
  | .endMark => stay s
  | .ack => stay s
  | .nak => stay s
  | .lineErr => .next (nakAndResync P s)
  | .timeout => .next (nakAndResync P s)

/-- BidAckWait (42_initiator.md R183, R184, R185). -/
def bidAckWaitOn (P : Params) (c : EventClass) (s : State) : Result :=
  match c with
  | .escape => enter P .bidAck s
  | .bidCode => stay s
  | .startMark => stay s
  | .data _ => stay s
  | .endMark => stay s
  | .ack => stay s
  | .nak => stay s
  | .lineErr => retry P .bid s
  | .timeout => retry P .bid s

/-- BidAck (R186 to R189). -/
def bidAckOn (P : Params) (c : EventClass) (s : State) : Result :=
  match c with
  | .escape => enter P .bidAckWait s
  | .bidCode => enter P .bidSend s
  | .startMark => enter P .bidAckWait s
  | .data _ => enter P .bidAckWait s
  | .endMark => enter P .bidAckWait s
  | .ack => enter P .transmit s
  | .nak => enter P .bidAckWait s
  | .lineErr => retry P .handshake s
  | .timeout => retry P .handshake s

/-- FrameAckWait (R191, R192, R193). -/
def frameAckWaitOn (P : Params) (c : EventClass) (s : State) : Result :=
  match c with
  | .escape => enter P .frameAck s
  | .bidCode => stay s
  | .startMark => stay s
  | .data _ => stay s
  | .endMark => stay s
  | .ack => stay s
  | .nak => stay s
  | .lineErr => retry P .frameHandshake s
  | .timeout => retry P .frameHandshake s

/-- FrameAck (R194 to R197). -/
def frameAckOn (P : Params) (c : EventClass) (s : State) : Result :=
  match c with
  | .escape => enter P .frameAckWait s
  | .bidCode => enter P .idle s
  | .startMark => enter P .frameAckWait s
  | .data _ => enter P .frameAckWait s
  | .endMark => enter P .frameAckWait s
  | .ack => enter P .idle (emit (.status .transmissionComplete) s)
  | .nak => retry P .frameAck s
  | .lineErr => retry P .frameAck s
  | .timeout => retry P .frameAck s

/-- The single transition rule that (state, event) selects (40_engine_core.md R110, R112). A
transient state is never held between steps (10_state.md R23): no rule, log entry 8. -/
def transition (P : Params) (c : EventClass) (s : State) : Result :=
  match s.state with
  | .idle => idleOn P c s
  | .bidWait => bidWaitOn P c s
  | .frameSync => frameSyncOn P c s
  | .frameStart => frameStartOn P c s
  | .lengthField => lengthFieldOn P c s
  | .payload => payloadOn P c s
  | .frameEndEscape => frameEndEscapeOn P c s
  | .frameEnd => frameEndOn P c s
  | .checksum => checksumOn P c s
  | .bidAckWait => bidAckWaitOn P c s
  | .bidAck => bidAckOn P c s
  | .frameAckWait => frameAckWaitOn P c s
  | .frameAck => frameAckOn P c s
  | .checksumCheck => .fault .notResting
  | .bidSend => .fault .notResting
  | .transmit => .fault .notResting

end Sys2Proof.Machine
end

