-- ==== Sys2Proof/Machine/HostEvents.lean ====
section
/-! DEFINITION. `Timeout`, `Send` and the reserved codes (43_event_instructions.md R220, R221; 30_encoding.md
R92). -/

namespace Sys2Proof.Machine

/-- `Timeout(t)` (R220): a stale one is a no-op in every state (40_engine_core.md R119). -/
def timeoutWith (P : Params) (t : Nat) (s : State) : Result :=
  if timeoutValid t s then transition P .timeout s else .next s

/-- `Send(p)` (R221, R122), its checks in the order of 60_exceptions.md R235. -/
def sendWith (P : Params) (p : Bytes) (s : State) : Result :=
  if s.state ≠ .idle then .next (raiseFault .sendNotIdle s)
  else if P.maxTxLen.val < p.length then .next (raiseFault .txTooLong s)
  else enter P .bidSend (storePending p s)

/-- The meaning of `Timeout(t)` (R220). -/
def execTimeout (t : Nat) (s : State) : Result := timeoutWith Config.params t s

/-- The meaning of `Send(p)` (R221). -/
def execSend (p : Bytes) (s : State) : Result := sendWith Config.params p s

/-- Code 0xC: the word is not an event, it raises `F_RSV_CODE` (R92). -/
def execReservedC (s : State) : Result := .next (raiseFault .rsvCode s)

/-- Code 0xD raises `F_RSV_CODE` (R92). -/
def execReservedD (s : State) : Result := .next (raiseFault .rsvCode s)

/-- Code 0xE raises `F_RSV_CODE` (R92). -/
def execReservedE (s : State) : Result := .next (raiseFault .rsvCode s)

/-- Code 0xF raises `F_RSV_CODE` (R92). -/
def execReservedF (s : State) : Result := .next (raiseFault .rsvCode s)

end Sys2Proof.Machine
end

