-- ==== Sys2Proof/Machine/LineEvents.lean ====
section
/-! DEFINITION. The Translator's events, codes 0x0 to 0x9 (43_event_instructions.md R210 to R219). Each has a
meaning under any parameters and, from it, the meaning of the machine's own instance. The dispatch
by resting state of each rule is the class's column of R222 (Transitions.lean). -/

namespace Sys2Proof.Machine

/-- `LineBidByte1`, class ESCAPE (R210). -/
def lineBidByte1With (P : Params) (s : State) : Result := transition P .escape s

/-- `LineBidByte2`, class BIDCODE (R211). -/
def lineBidByte2With (P : Params) (s : State) : Result := transition P .bidCode s

/-- `FrameStartEscape`, class ESCAPE (R212, R84). -/
def frameStartEscapeWith (P : Params) (s : State) : Result := transition P .escape s

/-- `FrameStartMarker`, class STARTMARK (R213). -/
def frameStartMarkerWith (P : Params) (s : State) : Result := transition P .startMark s

/-- `DataByte(v)`, class DATA (R214). -/
def dataByteWith (P : Params) (v : Byte) (s : State) : Result := transition P (.data v) s

/-- `FrameEndEscape`, class ESCAPE (R215, R84). -/
def frameEndEscapeWith (P : Params) (s : State) : Result := transition P .escape s

/-- `FrameEndMarker`, class ENDMARK (R216). -/
def frameEndMarkerWith (P : Params) (s : State) : Result := transition P .endMark s

/-- `AckByte`, class ACK (R217). -/
def ackByteWith (P : Params) (s : State) : Result := transition P .ack s

/-- `NakByte`, class NAK (R218). -/
def nakByteWith (P : Params) (s : State) : Result := transition P .nak s

/-- `LineError`, class LINEERR (R219). -/
def lineErrorWith (P : Params) (s : State) : Result := transition P .lineErr s

/-- The meaning of `LineBidByte1` (R210). -/
def execLineBidByte1 (s : State) : Result := lineBidByte1With Config.params s

/-- The meaning of `LineBidByte2` (R211). -/
def execLineBidByte2 (s : State) : Result := lineBidByte2With Config.params s

/-- The meaning of `FrameStartEscape` (R212). -/
def execFrameStartEscape (s : State) : Result := frameStartEscapeWith Config.params s

/-- The meaning of `FrameStartMarker` (R213). -/
def execFrameStartMarker (s : State) : Result := frameStartMarkerWith Config.params s

/-- The meaning of `DataByte(v)` (R214). -/
def execDataByte (v : Byte) (s : State) : Result := dataByteWith Config.params v s

/-- The meaning of `FrameEndEscape` (R215). -/
def execFrameEndEscape (s : State) : Result := frameEndEscapeWith Config.params s

/-- The meaning of `FrameEndMarker` (R216). -/
def execFrameEndMarker (s : State) : Result := frameEndMarkerWith Config.params s

/-- The meaning of `AckByte` (R217). -/
def execAckByte (s : State) : Result := ackByteWith Config.params s

/-- The meaning of `NakByte` (R218). -/
def execNakByte (s : State) : Result := nakByteWith Config.params s

/-- The meaning of `LineError` (R219). -/
def execLineError (s : State) : Result := lineErrorWith Config.params s

end Sys2Proof.Machine
end

