-- ==== Sys2Proof/Machine/Dispatch.lean ====
section
/-! DEFINITION. One arm per constructor of Instr, each a direct call of that instruction's meaning. -/

namespace Sys2Proof.Machine

def exec (i : Instr) (s : State) : Host.Outcome State Fault Refusal :=
  match i with
  | .lineBidByte1 => Sys2Proof.Machine.execLineBidByte1 s
  | .lineBidByte2 => Sys2Proof.Machine.execLineBidByte2 s
  | .frameStartEscape => Sys2Proof.Machine.execFrameStartEscape s
  | .frameStartMarker => Sys2Proof.Machine.execFrameStartMarker s
  | .dataByte v => Sys2Proof.Machine.execDataByte v s
  | .frameEndEscape => Sys2Proof.Machine.execFrameEndEscape s
  | .frameEndMarker => Sys2Proof.Machine.execFrameEndMarker s
  | .ackByte => Sys2Proof.Machine.execAckByte s
  | .nakByte => Sys2Proof.Machine.execNakByte s
  | .lineError => Sys2Proof.Machine.execLineError s
  | .timeout t => Sys2Proof.Machine.execTimeout t s
  | .send p => Sys2Proof.Machine.execSend p s
  | .reservedC => Sys2Proof.Machine.execReservedC s
  | .reservedD => Sys2Proof.Machine.execReservedD s
  | .reservedE => Sys2Proof.Machine.execReservedE s
  | .reservedF => Sys2Proof.Machine.execReservedF s

end Sys2Proof.Machine
end

