-- ==== Sys2Proof/Machine/Step.lean ====
section
/-! DEFINITION. One step of the machine, and where it fetches its next instruction. -/

namespace Sys2Proof.Machine

/-- One step (70_reset_and_hazards.md R270): one move of one agent, with the machine's own dispatch. -/
def step (s : State) : Host.Outcome State Fault Refusal := stepBy Config.params exec s

/-- The table row's word at the head of the serialized path, as the next word the engine takes. -/
def State.withFetchWord (s : State) (nbits w : Nat) : State :=
  placeWord ⟨w % 2 ^ nbits, []⟩ s

end Sys2Proof.Machine
end

