-- ==== Sys2Proof/Machine/Parametric.lean ====
section
/-! DEFINITION. The same machine under any parameters (00_scope.md R6), for statements about the alternatives
`COUNTER_MAP`, `ABORT_SENDS_NAK`, `ARM_ALL_WAIT_STATES`, `MAX_TX_LEN`, `TAG_W` and about every choice of the
OPEN values; at `Config.params` it is the machine of Dispatch.lean and Step.lean. -/

namespace Sys2Proof.Machine

/-- The meaning of an instruction under given parameters. -/
def execWith (P : Params) (i : Instr) (s : State) : Result :=
  match i with
  | .lineBidByte1 => lineBidByte1With P s
  | .lineBidByte2 => lineBidByte2With P s
  | .frameStartEscape => frameStartEscapeWith P s
  | .frameStartMarker => frameStartMarkerWith P s
  | .dataByte v => dataByteWith P v s
  | .frameEndEscape => frameEndEscapeWith P s
  | .frameEndMarker => frameEndMarkerWith P s
  | .ackByte => ackByteWith P s
  | .nakByte => nakByteWith P s
  | .lineError => lineErrorWith P s
  | .timeout t => timeoutWith P t s
  | .send p => sendWith P p s
  | .reservedC => execReservedC s
  | .reservedD => execReservedD s
  | .reservedE => execReservedE s
  | .reservedF => execReservedF s

/-- One step under given parameters. -/
def stepWith (P : Params) (s : State) : Result := stepBy P (execWith P) s

end Sys2Proof.Machine
end

