-- ==== Sys2Proof/Machine/Runs.lean ====
section
/-! DEFINITION. Runs of the machine, when one ends and what is reported of it (70_reset_and_hazards.md R270,
R271). -/

namespace Sys2Proof.Machine

/-- The reset state with an environment: any words queued, any moves decided on (10_state.md R37). -/
def State.resetWithin (fifo : List QueuedWord) (sched : List Move) : State :=
  { State.reset with fifo := fifo, sched := sched }

/-- `n` moves from a state, stopping at the first fault or refusal (R270). -/
def runWith (P : Params) : Nat → State → Result
  | 0, s => .next s
  | n + 1, s =>
    match stepWith P s with
    | .next s' => runWith P n s'
    | .fault f => .fault f
    | .refused r => .refused r

/-- The FIFO is empty and the script has no more items: a run is at its end (R270). -/
def State.atEnd (s : State) : Bool := s.fifo.isEmpty && s.sched.isEmpty

/-- The completion condition of a test harness: FIFO empty, no `FIRE` enabled, `fault = 0` (R271). -/
def State.completed (s : State) : Bool := s.fifo.isEmpty && !fireEnabled s && s.fault == 0

/-- The result of a run: the concatenation of its steps' effect lists, the final registers, the final
`fault` register (R270). -/
structure RunResult where
  effects : List Effect
  registers : State
  fault : BitVec 4
  deriving DecidableEq, Repr

/-- What is reported of a run (R270). -/
inductive RunOutcome where
  /-- the normal end: nothing left to take, `fault = 0` -/
  | ended (r : RunResult)
  /-- a faulted run: the result is valid only up to the step that raised the fault -/
  | faulted (r : RunResult)
  /-- words or moves are left -/
  | unfinished (s : State)
  /-- the machine stopped (see `Fault`) -/
  | stopped (f : Fault)
  /-- an instruction without a meaning (see `Refusal`) -/
  | refused (r : Refusal)
  deriving DecidableEq, Repr

/-- The result of a run from one state to another: its effects are those emitted on the way. -/
def runResult (start final : State) : RunResult :=
  { effects := final.effects.drop start.effects.length, registers := final, fault := final.fault }

/-- The report of a run by the state it has reached (R270). -/
def outcomeOf (start : State) (r : Result) : RunOutcome :=
  match r with
  | .next t =>
    if t.fault ≠ 0 then .faulted (runResult start t)
    else if t.atEnd then .ended (runResult start t)
    else .unfinished t
  | .fault f => .stopped f
  | .refused r => .refused r

/-- The report of `n` moves from a state. A run of R270 starts at reset (`State.resetWithin`) and has no
RESET move: a RESET ends it and begins another one. -/
def runOutcome (P : Params) (n : Nat) (start : State) : RunOutcome :=
  outcomeOf start (runWith P n start)

end Sys2Proof.Machine
end

