-- ==== Sys2Proof/Machine/Script.lean ====
section
/-! DEFINITION. What stands around the block and is given by its contract: the Translator
(60_exceptions.md R247), the inbound frame on the wire and as events (30_encoding.md R94), and event
scripts (R99, R100). The machine's step uses none of it; statements about bytes on the wire and
about sequences of events do. -/

namespace Sys2Proof.Machine

/-! ### The Translator -/

/-- What reaches the Translator from the line: a byte or a transport fault (R247). -/
inductive LineInput where
  | byte (b : Byte)
  | transportFault
  deriving DecidableEq, Repr

/-- The ESCAPE code a translator delivers for an escape byte: any of the three (R84, R247). -/
inductive EscapeCode where
  | lineBidByte1
  | frameStartEscape
  | frameEndEscape
  deriving DecidableEq, Repr

/-- Its event. -/
def EscapeCode.event : EscapeCode → Instr
  | .lineBidByte1 => .lineBidByte1
  | .frameStartEscape => .frameStartEscape
  | .frameEndEscape => .frameEndEscape

/-- One arrival from the line, with the ESCAPE code the translator delivers if it is an escape byte. -/
structure LineArrival where
  input : LineInput
  escape : EscapeCode
  deriving DecidableEq, Repr

/-- The event a received byte gives (R247). -/
def translateByte (P : Params) (collecting : Bool) (e : EscapeCode) (b : Byte) : Instr :=
  if collecting then .dataByte b
  else if b = P.escCode then e.event
  else if b = P.bidCode then .lineBidByte2
  else if b = P.startCode then .frameStartMarker
  else if b = P.endCode then .frameEndMarker
  else if b = P.ackCode then .ackByte
  else if b = P.nakCode then .nakByte
  else .dataByte b

/-- The event an arrival gives: `LineError` for a transport fault (R247). -/
def translateArrival (P : Params) (collecting : Bool) (a : LineArrival) : Instr :=
  match a.input with
  | .byte b => translateByte P collecting a.escape b
  | .transportFault => .lineError

/-- The events R247 allows a translator for an input. -/
def translatorAllows (P : Params) (collecting : Bool) (x : LineInput) (i : Instr) : Bool :=
  [EscapeCode.lineBidByte1, .frameStartEscape, .frameEndEscape].any fun e =>
    translateArrival P collecting ⟨x, e⟩ == i

/-- The Translator's step: exactly one word joins the path's tail, chosen against the status outputs of
the state it is taken in (R247, R237). -/
def translatorStep (P : Params) (a : LineArrival) (s : State) : State :=
  offerWord (encode P.tagW (translateArrival P s.collecting a)) s

/-- The event class ESCAPE (R84). -/
def Instr.isEscape : Instr → Bool
  | .lineBidByte1 => true
  | .frameStartEscape => true
  | .frameEndEscape => true
  | .lineBidByte2 => false
  | .frameStartMarker => false
  | .dataByte _ => false
  | .frameEndMarker => false
  | .ackByte => false
  | .nakByte => false
  | .lineError => false
  | .timeout _ => false
  | .send _ => false
  | .reservedC => false
  | .reservedD => false
  | .reservedE => false
  | .reservedF => false

/-! ### Sequences of events -/

/-- Events taken one after the other; a faulted block takes none (60_exceptions.md R234). -/
def execSeq (P : Params) : List Instr → State → Result
  | [], s => .next s
  | i :: is, s =>
    if s.fault ≠ 0 then .next s
    else match execWith P i s with
      | .next s' => execSeq P is s'
      | .fault f => .fault f
      | .refused r => .refused r

/-- The engine's steps on the next `n` words of the path (40_engine_core.md R110). -/
def takeWords (P : Params) : Nat → State → Result
  | 0, s => .next s
  | n + 1, s =>
    match takeWord P (execWith P) s with
    | .next s' => takeWords P n s'
    | .fault f => .fault f
    | .refused r => .refused r

/-- The engine's steps on every queued word. -/
def consumeQueued (P : Params) (s : State) : Result := takeWords P s.fifo.length s

/-- Arrivals from the line one after the other: each is translated after every earlier word has been
consumed (R247), and the last word is consumed too. -/
def receiveLine (P : Params) : List LineArrival → State → Result
  | [], s => consumeQueued P s
  | a :: as, s =>
    match consumeQueued P s with
    | .next s' => receiveLine P as (translatorStep P a s')
    | .fault f => .fault f
    | .refused r => .refused r

/-! ### The inbound frame -/

/-- `LEN_HI` and `LEN_LO` of a payload (R94, 20_memory.md R63). -/
def lengthPrefix (p : Bytes) : TwoBytes :=
  ⟨(BitVec.ofNat 16 p.length).extractLsb' 8 8, (BitVec.ofNat 16 p.length).extractLsb' 0 8⟩

/-- The checksum of a payload's frame (R65). -/
def frameChecksum (P : Params) (p : Bytes) : Half :=
  P.checksum (checksumInput P (lengthPrefix p) p)

/-- `CRC_LO` and `CRC_HI` of a checksum (R64). -/
def checksumBytes (k : Half) : TwoBytes := ⟨k.extractLsb' 0 8, k.extractLsb' 8 8⟩

/-- The inbound wire frame with a given checksum (R94). -/
def wireFrame (P : Params) (p : Bytes) (k : Half) : Bytes :=
  [P.escCode, P.startCode] ++ (lengthPrefix p).bytes ++ p ++ endSeq P ++ (checksumBytes k).bytes

/-- Its event image (R94). -/
def eventImage (p : Bytes) (k : Half) : List Instr :=
  [.frameStartEscape, .frameStartMarker] ++ (lengthPrefix p).bytes.map .dataByte
    ++ p.map .dataByte ++ [.frameEndEscape, .frameEndMarker]
    ++ (checksumBytes k).bytes.map .dataByte

/-! ### Scripts -/

/-- A script item (R99) or pseudo-item (R100). -/
inductive ScriptItem where
  | event (i : Instr)
  | fire
  | esc
  | bidSeq
  | ackSeq
  | nakSeq
  | frame (p : Bytes)
  | frameCrc (p : Bytes) (crc : Half)
  | timeoutNow
  deriving DecidableEq, Repr

/-- `FIRE` in a script: its word is consumed where a later `Timeout` line stands (R99). -/
def scriptFire (s : State) : State := if fireEnabled s then { s with dlFired := true } else s

/-- What a script item does; `TIMEOUT` is a `FIRE` and then its own word (R100). -/
def runItem (P : Params) (it : ScriptItem) (s : State) : Result :=
  match it with
  | .event i => execSeq P [i] s
  | .fire => .next (scriptFire s)
  | .esc => execSeq P [.frameStartEscape] s
  | .bidSeq => execSeq P [.lineBidByte1, .lineBidByte2] s
  | .ackSeq => execSeq P [.frameStartEscape, .ackByte] s
  | .nakSeq => execSeq P [.frameStartEscape, .nakByte] s
  | .frame p => execSeq P (eventImage p (frameChecksum P p)) s
  | .frameCrc p crc => execSeq P (eventImage p crc) s
  | .timeoutNow => execSeq P [.timeout s.dlTag] (scriptFire s)

/-- A script run from a state (R99, R270). -/
def runScript (P : Params) : List ScriptItem → State → Result
  | [], s => .next s
  | it :: its, s =>
    match runItem P it s with
    | .next s' => runScript P its s'
    | .fault f => .fault f
    | .refused r => .refused r

/-- The report of a script run from reset: its end, or the fault it raised (R270). -/
def scriptOutcome (P : Params) (its : List ScriptItem) : RunOutcome :=
  outcomeOf State.reset (runScript P its State.reset)

end Sys2Proof.Machine
end

