-- ==== Sys2Proof/Safety.lean ====
section
/-! DEFINITION. What counts as a safe run: the invariant of the block's registers between steps
(40_engine_core.md R127, 10_state.md R25 to R32, R39) and the canonical form of its buffers. -/

namespace Sys2Proof.Machine

/-- Every listed address lies in the space (R60). -/
def Memory.WithinSize (m : Memory) (n : Nat) : Prop := ∀ c ∈ m, c.1 < n

/-- The buffers' lists are canonical and within their spaces (R60). -/
structure State.BuffersCanonical (P : Params) (s : State) : Prop where
  databuf_wf : Memory.wf s.databuf = true
  databuf_within : Memory.WithinSize s.databuf (Space.size P .rxData)
  pfBytes_wf : Memory.wf s.pfBytes = true
  pfBytes_within : Memory.WithinSize s.pfBytes (Space.size P .txp)

/-- The legal values of the registers between steps. Items 1 to 5 of R127, and what makes them
inductive: the counts of each state of the receive path (R30, R31), which bound what a later rule reads
(R62), and the parsed length (R63). -/
structure State.Inv (P : Params) (s : State) : Prop where
  /-- R127 item 1 -/
  resting : s.state.resting = true
  /-- R127 item 2 -/
  c0_le : s.c0 ≤ 2
  c1_le : s.c1 ≤ 2
  idle_counters : s.state = .idle → s.c0 = 0 ∧ s.c1 = 0
  /-- R127 item 3 -/
  armed : s.dlArmed = arming P s.state
  fired : s.dlArmed = false → s.dlFired = false
  /-- R28, R39 -/
  tag_lt : s.dlTag < 2 ^ P.tagW
  /-- R127 item 4 -/
  pending : s.pfValid = decide (s.state.role = .initiator)
  /-- R127 item 5 -/
  lenCount_le : s.lenCount ≤ 2
  crcCount_le : s.crcCount ≤ 2
  data_le : s.lenCount = 2 → s.dataCount ≤ s.rxLen
  length_held : s.state = .payload ∨ s.state = .frameEndEscape ∨ s.state = .frameEnd ∨
    s.state = .checksum → s.lenCount = 2
  data_held : s.state = .frameEndEscape ∨ s.state = .frameEnd ∨ s.state = .checksum →
    s.dataCount = s.rxLen
  /-- R31 -/
  no_data : s.lenCount < 2 → s.dataCount = 0
  /-- R63 -/
  parsed : s.lenCount = 2 → s.rxLen = s.lenbuf.bigEndian
  /-- R115 -/
  idle_assembly : s.state = .idle → s.lenCount = 0 ∧ s.dataCount = 0 ∧ s.crcCount = 0
  /-- R148 -/
  fresh_assembly : s.state = .frameStart → s.lenCount = 0 ∧ s.dataCount = 0 ∧ s.crcCount = 0
  /-- R153 -/
  length_open : s.state = .lengthField → s.lenCount < 2
  /-- R156 -/
  payload_open : s.state = .payload → s.dataCount < s.rxLen
  /-- R161, R163 -/
  checksum_unread : s.state = .lengthField ∨ s.state = .payload ∨ s.state = .frameEndEscape ∨
    s.state = .frameEnd → s.crcCount = 0
  checksum_open : s.state = .checksum → s.crcCount < 2
  /-- R32, R39 -/
  pending_le : s.pfValid = true → s.pfLen.toNat ≤ P.maxTxLen.val

end Sys2Proof.Machine
end

