-- ==== Sys2Proof/Certificates/Slice0/Obligations.lean ====
section
/-! DEFINITION. The statements for the provers. The words they share come first: what a step answers is
written as a whole state (every register the record does not name is unchanged, every byte of every
buffer too), from the rules' own sets and tables and not from the machine's operations. -/

namespace Sys2Proof.Statements

open Sys2Proof.Machine

/-- The states whose entry arms the Deadline, as 40_engine_core.md R116 lists them. -/
def armsIn (P : Params) (S : EngineState) : Bool :=
  [EngineState.bidWait, .frameSync, .lengthField, .payload, .checksum, .bidAckWait, .bidAck,
    .frameAckWait, .frameAck].contains S
    || (P.armAllWaitStates && [EngineState.frameStart, .frameEndEscape, .frameEnd].contains S)

/-- The state after an entry to a resting state other than Idle, `es` emitted: R113, R118, and R148 for
FrameStart. -/
def entered (P : Params) (S : EngineState) (es : List Effect) (s : State) : State :=
  { s with
    state := S
    dlTag := if armsIn P S then (s.dlTag + 1) % 2 ^ P.tagW else s.dlTag
    dlArmed := armsIn P S
    dlFired := false
    lenCount := if S = .frameStart then 0 else s.lenCount
    dataCount := if S = .frameStart then 0 else s.dataCount
    crcCount := if S = .frameStart then 0 else s.crcCount
    effects := s.effects ++ es }

/-- The state after an entry to Idle, `es` emitted (R115): `dl_tag` and the buffers keep their values. -/
def idled (es : List Effect) (s : State) : State :=
  { s with
    state := .idle
    c0 := 0
    c1 := 0
    pfValid := false
    lenCount := 0
    dataCount := 0
    crcCount := 0
    dlArmed := false
    dlFired := false
    effects := s.effects ++ es }

/-- The state after nak-and-resync (R120). -/
def resynced (P : Params) (s : State) : State :=
  entered P .frameSync [.sendBytes [P.escCode, P.nakCode]] s

/-- The state after abort-with-nak (R121). -/
def aborted (P : Params) (s : State) : State :=
  idled (if P.abortSendsNak then [.sendBytes [P.escCode, P.nakCode]] else []) s

/-- The three events of the class ESCAPE (30_encoding.md R84). -/
def escapes : List Instr := [.lineBidByte1, .frameStartEscape, .frameEndEscape]

/-- A valid `Timeout(t)` (R119). -/
def ValidTimeout (t : Nat) (s : State) : Prop := s.dlArmed = true ∧ s.dlFired = true ∧ t = s.dlTag

/-- The two causes an initiator state counts alike: `LineError` and a valid `Timeout`. -/
def LostReply (i : Instr) (s : State) : Prop :=
  i = .lineError ∨ ∃ t, i = .timeout t ∧ ValidTimeout t s

/-- `bs` is the pending payload: valid, of length `pf_len`, within `MAX_TX_LEN`, stored from address 0
of the space TXP. -/
def Pending (P : Params) (s : State) (bs : Bytes) : Prop :=
  s.pfValid = true ∧ bs.length = s.pfLen.toNat ∧ bs.length ≤ P.maxTxLen.val ∧
    ∀ n, n < bs.length → bs[n]? = some (Memory.read s.pfBytes n)

/-- The received payload: `rx_len` bytes stored from address 0 of the space RXDATA. -/
def Received (s : State) (bs : Bytes) : Prop :=
  bs.length = s.rxLen.toNat ∧ ∀ n, n < bs.length → bs[n]? = some (Memory.read s.databuf n)

/-- `m'` is `m` with the byte `v` at address `a`, every other address as before. -/
def StoredAt (m : Memory) (a : Nat) (v : Byte) (m' : Memory) : Prop :=
  ∀ x, Memory.read m' x = if x = a then v else Memory.read m x

/-- `m'` is `m` with the bytes `p` from address 0, every address from `len p` up as before. -/
def StoredFromZero (m : Memory) (p : Bytes) (m' : Memory) : Prop :=
  ∀ x, Memory.read m' x = (p[x]?).getD (Memory.read m x)

/-- The counter that the retry of a wait state increments (42_initiator.md R180). -/
def counterOf (m : CounterMap) (S : EngineState) : Counter :=
  match m with
  | .byStage => if S = .bidAckWait ∨ S = .frameAckWait then .c0 else .c1
  | .byPhase => if S = .bidAckWait ∨ S = .bidAck then .c0 else .c1

/-- The value of a retry counter. -/
def valueOf (c : Counter) (s : State) : BitVec 2 :=
  match c with
  | .c0 => s.c0
  | .c1 => s.c1

/-- One retry counter incremented, the other kept (10_state.md R26). -/
def bumped (c : Counter) (s : State) : State :=
  match c with
  | .c0 => { s with c0 := s.c0 + 1 }
  | .c1 => { s with c1 := s.c1 + 1 }

/-- A bounded retry (R117) with the given counter, restarting in `S` with `es` re-sent: below the cap
the counter is incremented and the wait restarts; at the cap the one failure status and Idle. -/
def Retries (P : Params) (c : Counter) (S : EngineState) (es : List Effect) (s : State)
    (r : Result) : Prop :=
  (valueOf c s < 2 → r = .next (entered P S es (bumped c s))) ∧
    (valueOf c s = 2 → r = .next (idled [.status .transmissionFailure] s))

/-- `t` is `s` but for what no rule has written: it may differ in `rx_len` and in the bytes of `lenbuf`,
`databuf` and `crcbuf` at or above their counts, and, with nothing pending, in `pf_len` and
`pf_bytes`; with a payload pending, in the bytes of `pf_bytes` from `pf_len` up (R62). -/
structure SameHeld (s t : State) : Prop where
  others : t = { s with
    lenbuf := t.lenbuf
    rxLen := t.rxLen
    databuf := t.databuf
    crcbuf := t.crcbuf
    pfLen := t.pfLen
    pfBytes := t.pfBytes }
  len_high : 1 ≤ s.lenCount → t.lenbuf.at0 = s.lenbuf.at0
  len_low : s.lenCount = 2 → t.lenbuf = s.lenbuf ∧ t.rxLen = s.rxLen
  data : ∀ n, n < s.dataCount.toNat → Memory.read t.databuf n = Memory.read s.databuf n
  crc_low : 1 ≤ s.crcCount → t.crcbuf.at0 = s.crcbuf.at0
  crc_high : s.crcCount = 2 → t.crcbuf = s.crcbuf
  pending : s.pfValid = true → t.pfLen = s.pfLen ∧
    ∀ n, n < s.pfLen.toNat → Memory.read t.pfBytes n = Memory.read s.pfBytes n

/-- The armings on the way of `n` moves from `s`. Each arming writes the next tag, and no other rule but
RESET writes `dl_tag` (10_state.md R28, R39), so a move that changes `dl_tag` is counted as one. -/
def armings (P : Params) : Nat → State → Nat
  | 0, _ => 0
  | n + 1, s =>
    match stepWith P s with
    | .next u => (if u.dlTag = s.dlTag then 0 else 1) + armings P n u
    | .fault _ => 0
    | .refused _ => 0

/-- A statement about the machine's own dispatch, `exec` of Dispatch.lean, and about the same meanings
under every choice of the parameters (00_scope.md R6): `P` stands for the parameters and `run` for the
dispatch, so `run i s = .next t` says that `exec i s` answers `t`. -/
def EveryInstance (row : Params → (Instr → State → Result) → Prop) : Prop :=
  row Config.params exec ∧ ∀ P : Params, row P (execWith P)

/-- The same for a statement about the machine's step too, `step` of Step.lean. -/
def EveryMachine (row : Params → (Instr → State → Result) → (State → Result) → Prop) : Prop :=
  row Config.params exec step ∧ ∀ P : Params, row P (execWith P) (stepWith P)

end Sys2Proof.Statements

open Sys2Proof Sys2Proof.Machine Sys2Proof.Statements

/-! ### Idle (40_engine_core.md) -/

/-- R123: an ESCAPE event in Idle, any of the three codes. -/
def Obligations.IdleEscapeEntersBidWait : Prop :=
  EveryInstance fun P run =>
    ∀ s : State, s.state = .idle → ∀ i ∈ escapes,
      run i s = .next (entered P .bidWait [] s)

/-- R124: `LineError` in Idle is abort-with-nak. -/
def Obligations.IdleLineErrorAborts : Prop :=
  EveryInstance fun P run =>
    ∀ s : State, s.state = .idle → run .lineError s = .next (aborted P s)

/-- R122 and the faults of R221: `Send(p)` in Idle within `MAX_TX_LEN` stores the payload, bids and waits
for the echo; outside Idle it sets `F_SEND_NOT_IDLE`, in Idle with too long a payload
`F_TX_TOO_LONG`, and changes nothing else. -/
def Obligations.SendStoresAndBidsOrFaults : Prop :=
  EveryInstance fun P run =>
    ∀ (s : State) (p : Bytes),
      (s.state = .idle → p.length ≤ P.maxTxLen.val →
        ∃ m, StoredFromZero s.pfBytes p m ∧
          run (.send p) s = .next (entered P .bidAckWait
            [.sendBytes [P.escCode, P.bidCode]]
            { s with pfBytes := m, pfLen := BitVec.ofNat 16 p.length, pfValid := true })) ∧
      (s.state ≠ .idle → run (.send p) s = .next { s with fault := s.fault ||| 0b0001#4 }) ∧
      (s.state = .idle → P.maxTxLen.val < p.length →
        run (.send p) s = .next { s with fault := s.fault ||| 0b1000#4 })

/-- R125: the stay arms of Idle, LengthField, Payload, Checksum, BidAckWait and FrameAckWait. -/
def Obligations.StayArmsChangeNothing : Prop :=
  EveryInstance fun _ run =>
    ∀ (s : State) (v : Byte),
      (s.state = .idle → ∀ i ∈ [Instr.lineBidByte2, .frameStartMarker, .dataByte v, .frameEndMarker,
        .ackByte, .nakByte], run i s = .next s) ∧
      (s.state = .lengthField ∨ s.state = .payload ∨ s.state = .checksum →
        ∀ i ∈ escapes ++ [.lineBidByte2, .frameStartMarker, .frameEndMarker, .ackByte, .nakByte],
          run i s = .next s) ∧
      (s.state = .bidAckWait ∨ s.state = .frameAckWait →
        ∀ i ∈ [Instr.lineBidByte2, .frameStartMarker, .dataByte v, .frameEndMarker, .ackByte,
          .nakByte], run i s = .next s)

/-! ### The responder (41_responder.md) -/

/-- R141, R142, R143. -/
def Obligations.BidWaitRow : Prop :=
  EveryInstance fun P run =>
    ∀ s : State, s.state = .bidWait →
      run .lineBidByte2 s = .next (entered P .frameSync
        [.sendBytes [P.escCode, P.ackCode]] s) ∧
      (∀ i, LostReply i s → run i s = .next (aborted P s)) ∧
      ∀ v, ∀ i ∈ escapes ++ [.frameStartMarker, .dataByte v, .frameEndMarker, .ackByte, .nakByte],
        run i s = .next (idled [] s)

/-- R144, R145, R146, R147: the timeout is silent, the line error is abort-with-nak. -/
def Obligations.FrameSyncRow : Prop :=
  EveryInstance fun P run =>
    ∀ s : State, s.state = .frameSync →
      (∀ i ∈ escapes, run i s = .next (entered P .frameStart [] s)) ∧
      (∀ t, ValidTimeout t s → run (.timeout t) s = .next (idled [] s)) ∧
      run .lineError s = .next (aborted P s) ∧
      ∀ v, ∀ i ∈ [Instr.lineBidByte2, .frameStartMarker, .dataByte v, .frameEndMarker, .ackByte,
        .nakByte], run i s = .next (entered P .bidWait [] s)

/-- R149, R150, R151, R152. -/
def Obligations.FrameStartRow : Prop :=
  EveryInstance fun P run =>
    ∀ s : State, s.state = .frameStart →
      (∀ i ∈ escapes, run i s = .next (entered P .frameSync [] s)) ∧
      run .lineBidByte2 s = .next (entered P .frameSync
        [.sendBytes [P.escCode, P.ackCode]] s) ∧
      run .frameStartMarker s = .next (entered P .lengthField [] s) ∧
      (∀ i, LostReply i s → run i s = .next (resynced P s)) ∧
      ∀ v, ∀ i ∈ [Instr.dataByte v, .frameEndMarker, .ackByte, .nakByte],
        run i s = .next (resynced P s)

/-- R153: the two length bytes, big-endian; a zero length skips Payload. -/
def Obligations.LengthBytesAreCollected : Prop :=
  EveryInstance fun P run =>
    ∀ (s : State) (v : Byte), s.state = .lengthField →
      (s.lenCount = 0 → run (.dataByte v) s =
        .next { s with lenbuf := ⟨v, s.lenbuf.at1⟩, lenCount := 1 }) ∧
      (s.lenCount = 1 → ∀ n : Half, n.toNat = s.lenbuf.at0.toNat * 256 + v.toNat →
        run (.dataByte v) s = .next (entered P
          (if n = 0 then .frameEndEscape else .payload) []
          { s with lenbuf := ⟨s.lenbuf.at0, v⟩, lenCount := 2, rxLen := n }))

/-- R156: a payload byte is stored at `data_count`; the last one ends Payload. -/
def Obligations.PayloadBytesAreCollected : Prop :=
  EveryInstance fun P run =>
    ∀ (s : State) (v : Byte), s.state = .payload → s.dataCount < s.rxLen →
      ∃ m, StoredAt s.databuf s.dataCount.toNat v m ∧
        run (.dataByte v) s = .next
          (if s.dataCount + 1 = s.rxLen then
            entered P .frameEndEscape []
              { s with databuf := m, dataCount := s.dataCount + 1 }
          else { s with databuf := m, dataCount := s.dataCount + 1 })

/-- R154, R157, R164: a lost reply while bytes are collected is nak-and-resync. -/
def Obligations.CollectingStatesResyncOnLoss : Prop :=
  EveryInstance fun P run =>
    ∀ s : State, s.state = .lengthField ∨ s.state = .payload ∨ s.state = .checksum →
      ∀ i, LostReply i s → run i s = .next (resynced P s)

/-- R159, R160, R161, R162. -/
def Obligations.FrameEndRows : Prop :=
  EveryInstance fun P run =>
    ∀ (s : State) (v : Byte),
      (s.state = .frameEndEscape →
        (∀ i ∈ escapes, run i s = .next (entered P .frameEnd [] s)) ∧
        (∀ i, LostReply i s → run i s = .next (resynced P s)) ∧
        ∀ i ∈ [Instr.lineBidByte2, .frameStartMarker, .dataByte v, .frameEndMarker, .ackByte,
          .nakByte], run i s = .next (resynced P s)) ∧
      (s.state = .frameEnd →
        run .frameEndMarker s = .next (entered P .checksum [] s) ∧
        (∀ i, LostReply i s → run i s = .next (resynced P s)) ∧
        ∀ i ∈ escapes ++ [.lineBidByte2, .frameStartMarker, .dataByte v, .ackByte, .nakByte],
          run i s = .next (resynced P s))

/-- R163, R166: the first checksum byte is held; the second is compared, low byte first, with the
checksum of length prefix, payload, ESC and FRAME-END (20_memory.md R64, R65). -/
def Obligations.ChecksumBytesAreChecked : Prop :=
  EveryInstance fun P run =>
    ∀ (s : State) (v : Byte), s.state = .checksum →
      (s.crcCount = 0 → run (.dataByte v) s =
        .next { s with crcbuf := ⟨v, s.crcbuf.at1⟩, crcCount := 1 }) ∧
      (s.crcCount = 1 → ∀ p, Received s p →
        run (.dataByte v) s = .next
          (if (P.checksum ([s.lenbuf.at0, s.lenbuf.at1] ++ p ++
                [P.escCode, P.endCode])).toNat =
              s.crcbuf.at0.toNat + 256 * v.toNat then
            idled [.sendBytes [P.escCode, P.ackCode], .frame p]
              { s with crcbuf := ⟨s.crcbuf.at0, v⟩ }
          else resynced P { s with crcbuf := ⟨s.crcbuf.at0, v⟩, crcCount := 2 }))

/-! ### The initiator (42_initiator.md) -/

/-- R183, R184, R185's other arms are in StayArmsChangeNothing. -/
def Obligations.BidAckWaitRow : Prop :=
  EveryInstance fun P run =>
    ∀ s : State, s.state = .bidAckWait →
      (∀ i ∈ escapes, run i s = .next (entered P .bidAck [] s)) ∧
      ∀ i, LostReply i s → Retries P .c0 .bidAckWait
        [.sendBytes [P.escCode, P.bidCode]] s (run i s)

/-- R186, R187, R188, R189. -/
def Obligations.BidAckRow : Prop :=
  EveryInstance fun P run =>
    ∀ s : State, s.state = .bidAck →
      run .lineBidByte2 s = .next (entered P .bidAckWait
        [.sendBytes [P.escCode, P.bidCode]] s) ∧
      (∀ p, Pending P s p →
        run .ackByte s = .next (entered P .frameAckWait [.sendBytes p] s)) ∧
      (∀ i, LostReply i s → Retries P (counterOf P.counterMap .bidAck)
        .bidAckWait [.sendBytes [P.escCode, P.bidCode]] s (run i s)) ∧
      ∀ v, ∀ i ∈ escapes ++ [.frameStartMarker, .dataByte v, .frameEndMarker, .nakByte],
        run i s = .next (entered P .bidAckWait [] s)

/-- R191, R192. -/
def Obligations.FrameAckWaitRow : Prop :=
  EveryInstance fun P run =>
    ∀ s : State, s.state = .frameAckWait →
      (∀ i ∈ escapes, run i s = .next (entered P .frameAck [] s)) ∧
      ∀ p, Pending P s p → ∀ i, LostReply i s →
        Retries P (counterOf P.counterMap .frameAckWait)
          .frameAckWait [.sendBytes p] s (run i s)

/-- R194, R195, R196, R197. -/
def Obligations.FrameAckRow : Prop :=
  EveryInstance fun P run =>
    ∀ s : State, s.state = .frameAck →
      run .lineBidByte2 s = .next (idled [] s) ∧
      run .ackByte s = .next (idled [.status .transmissionComplete] s) ∧
      (∀ p, Pending P s p → ∀ i, i = .nakByte ∨ LostReply i s →
        Retries P .c1 .frameAckWait [.sendBytes p] s (run i s)) ∧
      ∀ v, ∀ i ∈ escapes ++ [.frameStartMarker, .dataByte v, .frameEndMarker],
        run i s = .next (entered P .frameAckWait [] s)

/-- R180 under either counter map, for every choice of the parameters. -/
def Obligations.RetryCountersUnderEitherMap : Prop :=
  ∀ (P : Params) (s : State) (i : Instr) (p : Bytes), LostReply i s → Pending P s p →
    ((s.state = .bidAckWait ∨ s.state = .bidAck) →
      Retries P (counterOf P.counterMap s.state) .bidAckWait [.sendBytes [P.escCode, P.bidCode]] s
        (execWith P i s)) ∧
    ((s.state = .frameAckWait ∨ s.state = .frameAck) →
      Retries P (counterOf P.counterMap s.state) .frameAckWait [.sendBytes p] s (execWith P i s))

/-! ### `Timeout`, the Deadline, the reserved words -/

/-- R119, R220: a stale `Timeout` changes nothing and emits nothing, in every state. -/
def Obligations.StaleTimeoutIsNoOp : Prop :=
  EveryInstance fun _ run =>
    ∀ (s : State) (t : Nat), ¬ ValidTimeout t s → run (.timeout t) s = .next s

/-- R220: a valid `Timeout` leads to a new `dl_tag` or to a disarmed Deadline, so a second one with the
same tag is stale. -/
def Obligations.ValidTimeoutIsSpent : Prop :=
  ∀ (P : Params) (s t : State) (g : Nat), s.state ≠ .idle → ValidTimeout g s →
    execWith P (.timeout g) s = .next t →
    (t.dlArmed = false ∨ t.dlTag ≠ s.dlTag) ∧ execWith P (.timeout g) t = .next t

/-- R28, R29, R118: every event leaves the Deadline as it was, disarms it, or arms it afresh under the
next tag. -/
def Obligations.EventsMoveTheDeadlineOneArming : Prop :=
  ∀ (P : Params) (i : Instr) (s t : State), execWith P i s = .next t →
    (t.dlArmed = s.dlArmed ∧ t.dlTag = s.dlTag ∧ t.dlFired = s.dlFired) ∨
    (t.dlArmed = false ∧ t.dlTag = s.dlTag ∧ t.dlFired = false) ∨
    (t.dlArmed = true ∧ t.dlTag = (s.dlTag + 1) % 2 ^ P.tagW ∧ t.dlFired = false)

/-- R119 and R275, the stale-timer law over runs: once a step has left the arming of the tag `g`, a
`Timeout` of the tag `g` is a no-op for as long as fewer than `2^TAG_W` armings have happened since, the
one of that step counted too. The moves on the way are those of any agents but RESET, in any number,
whatever words arrive and however often the Deadline fires; for every width `TAG_W`. The agents' order in
`sched` is the model's choice (log entry 11). -/
def Obligations.StaleTimerLaw : Prop :=
  ∀ (P : Params) (n : Nat) (s u t : State) (g : Nat), s.dlTag = g → Move.reset ∉ s.sched →
    stepWith P s = .next u → (u.dlTag ≠ g ∨ u.dlArmed = false) →
    runWith P n u = .next t → armings P (n + 1) s < 2 ^ P.tagW →
    execWith P (.timeout g) t = .next t

/-- R92, R233 for the reserved codes. -/
def Obligations.ReservedCodesRaiseTheirFault : Prop :=
  EveryInstance fun _ run =>
    ∀ s : State, ∀ i ∈ [Instr.reservedC, .reservedD, .reservedE, .reservedF],
      run i s = .next { s with fault := s.fault ||| 0b0010#4 }

/-- R92 at the step: the code check before the reserved-bits check, the word consumed, one fault bit
set, nothing else, in either form of the engine's move. That the raising word is consumed is the model's
reading (log entry 10), the moves of `sched` are the model's choice (log entry 11), and words stand on
the path as the numbers of their bits (log entry 4). -/
def Obligations.ReservedWordsRaiseOneFault : Prop :=
  EveryMachine fun P _ step =>
    ∀ (s : State) (w : EventWord P.tagW) (p : Bytes) (rest : List QueuedWord) (ms : List Move),
      (s.sched = [] ∧ ms = []) ∨ s.sched = .deliver :: ms →
      s.fault = 0 → s.fifo = ⟨w.toNat, p⟩ :: rest →
      (0xC#4 ≤ w.extractLsb' 0 4 →
        step s = .next { s with fifo := rest, sched := ms, fault := 0b0010#4 }) ∧
      (w.extractLsb' 0 4 < 0xC#4 → w.extractLsb' 4 4 ≠ 0 →
        step s = .next { s with fifo := rest, sched := ms, fault := 0b0100#4 })

/-- R84: the three ESCAPE events have one effect, in every state. -/
def Obligations.EscapeEventsAreOneClass : Prop :=
  ∀ (P : Params) (s : State), ∀ i ∈ escapes, ∀ j ∈ escapes, execWith P i s = execWith P j s

/-! ### The word (30_encoding.md) -/

/-- Decode and encode agree, every operand at every value the encoding admits, at every width of the
tag; and the word put on the path, as the number of its bits (log entry 4), is one of `16 + TAG_W` bits
that reads the same there. -/
def Obligations.DecodeEncodeRoundTrip : Prop :=
  ∀ (tagW : Nat) (i : Instr), (∀ t, i = .timeout t → t < 2 ^ tagW) →
    decode tagW (encodeWord tagW i) i.payload = .ok i ∧
    (encode tagW i).word < 2 ^ (16 + tagW) ∧ decodeQueued tagW (encode tagW i) = .ok i

/-- The other direction: the encoding of a decoded word agrees with it on every bit that is no ignored
field (R81, R93), at every width of the tag. -/
def Obligations.EncodeAgreesWithDecodedWord : Prop :=
  ∀ (tagW : Nat) (w : EventWord tagW) (p : Bytes) (i : Instr), decode tagW w p = .ok i →
    (encodeWord tagW i).extractLsb' 0 4 = w.extractLsb' 0 4 ∧
    (w.extractLsb' 0 4 < 0xC#4 → (encodeWord tagW i).extractLsb' 4 4 = w.extractLsb' 4 4) ∧
    (w.extractLsb' 0 4 = 4 → (encodeWord tagW i).extractLsb' 8 8 = w.extractLsb' 8 8) ∧
    (w.extractLsb' 0 4 = 10 →
      (encodeWord tagW i).extractLsb' 16 tagW = w.extractLsb' 16 tagW) ∧
    (w.extractLsb' 0 4 = 11 → (encode tagW i).payload = p)

/-- R98: every word of `16 + TAG_W` bits is exactly one of an event, a reserved-code word, a
reserved-bits word. -/
def Obligations.DecodingIsTotal : Prop :=
  ∀ (tagW : Nat) (w : EventWord tagW) (p : Bytes),
    (w.extractLsb' 0 4 < 0xC#4 ∧ w.extractLsb' 4 4 = 0 →
      ∃ i, decode tagW w p = .ok i ∧ i.reservedRow = false ∧ i.code = w.extractLsb' 0 4) ∧
    (0xC#4 ≤ w.extractLsb' 0 4 →
      ∃ i, decode tagW w p = .ok i ∧ i.reservedRow = true ∧ i.code = w.extractLsb' 0 4) ∧
    (w.extractLsb' 0 4 < 0xC#4 ∧ w.extractLsb' 4 4 ≠ 0 → decode tagW w p = .error .reservedBits)

/-- R93: the ignored fields have no effect. -/
def Obligations.IgnoredFieldsHaveNoEffect : Prop :=
  ∀ (tagW : Nat) (w w' : EventWord tagW) (p : Bytes), w.extractLsb' 0 8 = w'.extractLsb' 0 8 →
    (w.extractLsb' 0 4 = 4 → w.extractLsb' 8 8 = w'.extractLsb' 8 8) →
    (w.extractLsb' 0 4 = 10 → w.extractLsb' 16 tagW = w'.extractLsb' 16 tagW) →
    decode tagW w p = decode tagW w' p

/-- Words written out from R83's table, and what they stand for; the last two under other widths of the
tag (R81). -/
def Obligations.WordsOfTheTableDecode : Prop :=
  decode 8 0x000000#24 [] = .ok .lineBidByte1 ∧ decode 8 0x000001#24 [] = .ok .lineBidByte2 ∧
  decode 8 0x00E004#24 [] = .ok (.dataByte 0xE0) ∧ decode 8 0x02000A#24 [] = .ok (.timeout 2) ∧
  decode 8 0x00000B#24 [1, 2] = .ok (.send [1, 2]) ∧ decode 8 0x00000C#24 [] = .ok .reservedC ∧
  decode 8 0x000010#24 [] = .error .reservedBits ∧ decode 8 0x00001C#24 [] = .ok .reservedC ∧
  decode 8 0x12AB00#24 [] = .ok .lineBidByte1 ∧ decode 4 0xF000A#20 [] = .ok (.timeout 15) ∧
  decode 16 0x0102000A#32 [] = .ok (.timeout 258)

/-- R88, R90, R34: the code of each of the 16 states, which of them are transient, and the status
outputs. -/
def Obligations.StatusOutputsFollowTheState : Prop :=
  [EngineState.idle, .bidWait, .frameSync, .frameStart, .lengthField, .payload, .frameEndEscape,
    .frameEnd, .checksum, .checksumCheck, .bidSend, .bidAckWait, .bidAck, .transmit, .frameAckWait,
    .frameAck].map EngineState.code =
    [0x0, 0x1, 0x2, 0x3, 0x4, 0x5, 0x6, 0x7, 0x8, 0x9, 0xA, 0xB, 0xC, 0xD, 0xE, 0xF] ∧
  (∀ S S' : EngineState, S.code = S'.code → S = S') ∧
  (∀ S : EngineState, S.resting = false ↔ S = .checksumCheck ∨ S = .bidSend ∨ S = .transmit) ∧
  (∀ s : State, s.stateOut = s.state.code ∧
    s.roleOut = (if s.stateOut = 0 then 0 else if s.stateOut ≤ 9 then 1 else 2) ∧
    (s.collecting = true ↔ s.state = .lengthField ∨ s.state = .payload ∨ s.state = .checksum) ∧
    (s.sendReady = true ↔ s.state = .idle ∧ s.fault = 0) ∧
    (s.faulted = true ↔ s.fault ≠ 0))

/-! ### The step and the agents -/

/-- R110: the engine's move takes the word at the head of the path and runs what it decodes to. The
agents' order in `sched` is the model's choice (log entry 11), and words stand on the path as the
numbers of their bits (log entry 4). -/
def Obligations.StepRunsTheDecodedInstruction : Prop :=
  EveryMachine fun P run step =>
    ∀ (s : State) (w : EventWord P.tagW) (p : Bytes) (rest : List QueuedWord) (ms : List Move)
      (i : Instr),
      (s.sched = [] ∧ ms = []) ∨ s.sched = .deliver :: ms →
      s.fault = 0 → s.fifo = ⟨w.toNat, p⟩ :: rest → decode P.tagW w p = .ok i →
      step s = run i { s with fifo := rest, sched := ms }

/-- R234: a faulted block consumes no word, does not fire, emits nothing; only RESET clears it. The
agents' order in `sched` is the model's choice (log entry 11). -/
def Obligations.FaultedBlockTakesNoStep : Prop :=
  EveryMachine fun _ _ step =>
    ∀ s : State, s.fault ≠ 0 →
      (s.sched = [] → step s = .next s) ∧
      ∀ ms, (s.sched = .deliver :: ms → step s = .next { s with sched := ms }) ∧
        (s.sched = .fire :: ms → step s = .next { s with sched := ms }) ∧
        (∀ q, s.sched = .offer q :: ms →
          step s = .next { s with sched := ms, fifo := s.fifo ++ [q] }) ∧
        (s.sched = .reset :: ms → ∃ t, step s = .next t ∧ t.fault = 0)

/-- R238: `FIRE` sets `dl_fired` and appends the `Timeout` word of the current tag, a number of `TAG_W`
bits; where it is not enabled nothing happens. That a `FIRE` which is not enabled does nothing, and
`sched`, are the model's choice (log entry 11), and words stand on the path as the numbers of their bits
(log entry 4). -/
def Obligations.FireAppendsTheTimeoutWord : Prop :=
  EveryMachine fun P _ step =>
    ∀ (s : State) (ms : List Move), s.sched = .fire :: ms →
      (s.dlTag < 2 ^ P.tagW → s.dlArmed = true → s.dlFired = false → s.fault = 0 →
        ∃ w : EventWord P.tagW, (w.extractLsb' 16 P.tagW).toNat = s.dlTag ∧
          w.extractLsb' 8 8 = 0 ∧ w.extractLsb' 4 4 = 0 ∧ w.extractLsb' 0 4 = 0xA ∧
          step s = .next
            { s with sched := ms, dlFired := true, fifo := s.fifo ++ [⟨w.toNat, []⟩] }) ∧
      ((s.dlArmed = false ∨ s.dlFired = true ∨ s.fault ≠ 0) →
        step s = .next { s with sched := ms })

/-- R238, R239: with nothing queued ahead, `FIRE` and the delivery of its word are a valid `Timeout` of
the current arming. The agents' order in `sched` is the model's choice (log entry 11). -/
def Obligations.FiredTimeoutIsValidWhenDeliveredNext : Prop :=
  EveryMachine fun P run step =>
    ∀ (s : State) (ms : List Move), s.sched = .fire :: .deliver :: ms → s.fifo = [] →
      s.dlTag < 2 ^ P.tagW → s.dlArmed = true → s.dlFired = false → s.fault = 0 →
      ∃ u, step s = .next u ∧
        step u = run (.timeout s.dlTag) { s with sched := ms, dlFired := true } ∧
        ValidTimeout s.dlTag { s with sched := ms, dlFired := true }

/-- R237: a word offered joins the tail of the path and nothing else changes. The agents' order in
`sched` is the model's choice (log entry 11). -/
def Obligations.OfferedWordJoinsTheTail : Prop :=
  EveryMachine fun _ _ step =>
    ∀ (s : State) (q : QueuedWord) (ms : List Move), s.sched = .offer q :: ms →
      step s = .next { s with sched := ms, fifo := s.fifo ++ [q] }

/-- R260, R262, R264: RESET puts every register that has a reset value at it, in every state, a faulted
one too; it emits nothing and leaves the serialized path as it is. `effects` as a growing list and
`sched` are the model's choice (log entries 11, 13, 14). -/
def Obligations.ResetRestoresTheResetValues : Prop :=
  EveryMachine fun _ _ step =>
    ∀ (s : State) (ms : List Move), s.sched = .reset :: ms →
      ∃ t, step s = .next t ∧ t.state = .idle ∧ t.c0 = 0 ∧ t.c1 = 0 ∧ t.dlArmed = false ∧
        t.dlTag = 0 ∧ t.dlFired = false ∧ t.lenCount = 0 ∧ t.dataCount = 0 ∧ t.crcCount = 0 ∧
        t.pfValid = false ∧ t.fault = 0 ∧ t.fifo = s.fifo ∧ t.effects = s.effects ∧ t.sched = ms

/-- R39 for the state the machine starts in: the values the spec gives. -/
def Obligations.ResetStateHasTheTableValues : Prop :=
  State.reset.state = .idle ∧ State.reset.c0 = 0 ∧ State.reset.c1 = 0 ∧
  State.reset.dlArmed = false ∧ State.reset.dlTag = 0 ∧ State.reset.dlFired = false ∧
  State.reset.lenCount = 0 ∧ State.reset.dataCount = 0 ∧ State.reset.crcCount = 0 ∧
  State.reset.pfValid = false ∧ State.reset.fault = 0 ∧ State.reset.sendReady = true

/-! ### Frames over all events -/

/-- R26, R27, R140: an event leaves both retry counters, or enters Idle and clears both, or is the cause of
a bounded retry (a lost reply, or a nak of the frame; R180) and increments exactly one of them between
two initiator states. -/
def Obligations.CountersChangeOnlyByRetryOrIdle : Prop :=
  ∀ (P : Params) (i : Instr) (s t : State), execWith P i s = .next t →
    (t.c0 = s.c0 ∧ t.c1 = s.c1) ∨ (t.state = .idle ∧ t.c0 = 0 ∧ t.c1 = 0) ∨
    ((LostReply i s ∨ (i = .nakByte ∧ s.state = .frameAck)) ∧
      s.state.role = .initiator ∧ t.state.role = .initiator ∧
      ((t.c0 = s.c0 + 1 ∧ t.c1 = s.c1) ∨ (t.c0 = s.c0 ∧ t.c1 = s.c1 + 1)))

/-- R96, R127: an event appends at most one effect, or the acknowledge and then the frame; a status
only on entering Idle from an initiator state. -/
def Obligations.EffectsOfOneStep : Prop :=
  ∀ (P : Params) (i : Instr) (s t : State), execWith P i s = .next t →
    ∃ es, t.effects = s.effects ++ es ∧
      (es.length ≤ 1 ∨ ∃ p, es = [.sendBytes [P.escCode, P.ackCode], .frame p]) ∧
      (∀ p, .frame p ∈ es → es = [.sendBytes [P.escCode, P.ackCode], .frame p] ∧
        s.state = .checksum ∧ t.state = .idle) ∧
      ∀ o, .status o ∈ es → s.state.role = .initiator ∧ t.state = .idle

/-- R199: the role changes only through Idle, from Idle by `Send` or by an ESCAPE event. -/
def Obligations.RolesChangeOnlyThroughIdle : Prop :=
  ∀ (P : Params) (i : Instr) (s t : State), execWith P i s = .next t →
    (s.state ≠ .idle → t.state = .idle ∨ t.state.role = s.state.role) ∧
    (s.state = .idle → t.state.role = .initiator → ∃ p, i = .send p) ∧
    (s.state = .idle → t.state.role = .responder → i ∈ escapes)

/-- R60, R32: the receive buffer changes only by a data byte in Payload, at `data_count`; the pending
payload only by `Send` in Idle. -/
def Obligations.BuffersChangeOnlyByTheirWriters : Prop :=
  ∀ (P : Params) (i : Instr) (s t : State), execWith P i s = .next t →
    (t.databuf = s.databuf ∨ ∃ v, i = .dataByte v ∧ s.state = .payload ∧
      StoredAt s.databuf s.dataCount.toNat v t.databuf) ∧
    ((t.pfBytes = s.pfBytes ∧ t.pfLen = s.pfLen) ∨ ∃ p, i = .send p ∧ s.state = .idle ∧
      StoredFromZero s.pfBytes p t.pfBytes ∧ t.pfLen.toNat = p.length)

/-- R32: a pending payload is immutable until it is consumed. -/
def Obligations.PendingFrameIsImmutable : Prop :=
  ∀ (P : Params) (i : Instr) (s t : State), s.Inv P → s.pfValid = true → execWith P i s = .next t →
    t.pfBytes = s.pfBytes ∧ t.pfLen = s.pfLen ∧
      (t.pfValid = false → t.state = .idle)

/-- R33, R233: an event only ever sets fault bits, and the events of codes 0x0 to 0xA set none; no event
touches the serialized path or the moves to come. The path and the moves are the model's environment
(log entry 11). -/
def Obligations.FaultRegisterIsSticky : Prop :=
  ∀ (P : Params) (i : Instr) (s t : State), execWith P i s = .next t →
    s.fault &&& t.fault = s.fault ∧ t.fifo = s.fifo ∧ t.sched = s.sched ∧
    (t.fault ≠ s.fault → (∃ p, i = .send p) ∨ i.reservedRow = true)

/-! ### Invariants -/

/-- The invariant holds at reset, with any words queued and any moves decided on. The agents' order in
`sched` is the model's choice (log entry 11). -/
def Obligations.InvariantHoldsAtReset : Prop :=
  State.Inv Config.params State.reset ∧
    ∀ (P : Params) (fifo : List QueuedWord) (sched : List Move),
      (State.resetWithin fifo sched).Inv P

/-- R127: every step keeps the invariant. The agents' order in `sched` is the model's choice (log entry
11). -/
def Obligations.StepKeepsInvariant : Prop :=
  EveryMachine fun P _ step => ∀ s t : State, s.Inv P → step s = .next t → t.Inv P

/-- The machine never stops in a state that satisfies the invariant, under any parameters: no access
outside a buffer, no transient state held, no Transmit without a pending payload (R23, R60, R190). A waiting or
faulted block answers its own state (log entries 10, 11, 12). -/
def Obligations.InvariantStatesAlwaysStep : Prop :=
  ∀ (P : Params) (s : State), s.Inv P → ∃ t, stepWith P s = .next t ∧ t.Inv P

/-- The buffers keep their canonical form and stay within their spaces (R60). What an unlisted byte
reads as is the model's choice (log entry 7). -/
def Obligations.StepKeepsBuffersCanonical : Prop :=
  EveryMachine fun P _ step =>
    ∀ s t : State, s.BuffersCanonical P → step s = .next t → t.BuffersCanonical P

/-- No run from reset stops, whatever words arrive in whatever order with whatever firings and resets.
A waiting or faulted block answers its own state (log entries 10, 11, 12). -/
def Obligations.RunsFromResetNeverStop : Prop :=
  ∀ (P : Params) (n : Nat) (fifo : List QueuedWord) (sched : List Move),
    ∃ t, runWith P n (State.resetWithin fifo sched) = .next t ∧ t.Inv P

/-- R126: in Idle no `Timeout` is valid, and every one is a no-op. -/
def Obligations.TimeoutInIdleIsNoOp : Prop :=
  EveryInstance fun P run =>
    ∀ (s : State) (t : Nat), s.Inv P → s.state = .idle →
      ¬ ValidTimeout t s ∧ run (.timeout t) s = .next s

/-! ### Exchanges -/

/-- R94 and 20_memory.md R63 to R66: the bytes of a valid frame, received in FrameSync through any
translator of 60_exceptions.md R247, whichever ESCAPE code it gives for each escape byte, are
acknowledged once and delivered as one frame. -/
def Obligations.ValidFrameIsAckedAndDelivered : Prop :=
  ∀ (P : Params) (s : State) (p : Bytes) (as : List LineArrival), CodesDistinct P →
    s.state = .frameSync → s.fault = 0 → s.fifo = [] → p.length ≤ Config.rxCap →
    as.map LineArrival.input = (wireFrame P p (frameChecksum P p)).map LineInput.byte →
    ∃ t, receiveLine P as s = .next t ∧ t.state = .idle ∧ t.fault = 0 ∧ t.fifo = [] ∧
      t.effects = s.effects ++ [.sendBytes [P.escCode, P.ackCode], .frame p]

/-- R167, R140: any number of corrupt copies are nakked, none delivered, and the engine accepts the
retransmission that follows; through any translator of 60_exceptions.md R247. -/
def Obligations.CorruptFramesAreNakkedThenAccepted : Prop :=
  ∀ (P : Params) (s : State) (p : Bytes) (ks : List Half) (as : List LineArrival),
    CodesDistinct P → s.state = .frameSync → s.fault = 0 → s.fifo = [] → p.length ≤ Config.rxCap →
    (∀ k ∈ ks, k ≠ frameChecksum P p) →
    as.map LineArrival.input =
      (ks.flatMap (wireFrame P p) ++ wireFrame P p (frameChecksum P p)).map LineInput.byte →
    ∃ t, receiveLine P as s = .next t ∧ t.state = .idle ∧ t.fault = 0 ∧ t.fifo = [] ∧
      t.effects = s.effects ++ List.replicate ks.length (.sendBytes [P.escCode, P.nakCode]) ++
        [.sendBytes [P.escCode, P.ackCode], .frame p]

/-- R200: with every reply correct the payload is sent once and one completion is emitted. -/
def Obligations.CorrectRepliesSendThePayloadOnce : Prop :=
  ∀ (P : Params) (s : State) (p : Bytes) (e e' : Instr), e ∈ escapes → e' ∈ escapes →
    s.state = .idle → s.fault = 0 → p.length ≤ P.maxTxLen.val →
    ∃ t, execSeq P [.send p, e, .ackByte, e', .ackByte] s = .next t ∧ t.state = .idle ∧
      t.effects = s.effects ++ [.sendBytes [P.escCode, P.bidCode], .sendBytes p,
        .status .transmissionComplete]

/-- R184: if every handshake reply is a timeout, three bids and one failure. -/
def Obligations.TimeoutsGiveThreeBidsAndOneFailure : Prop :=
  ∀ (P : Params) (s : State) (p : Bytes), s.Inv P → s.state = .idle → s.fault = 0 →
    p.length ≤ P.maxTxLen.val →
    ∃ t, runScript P [.event (.send p), .timeoutNow, .timeoutNow, .timeoutNow] s = .next t ∧
      t.state = .idle ∧ t.c0 = 0 ∧ t.c1 = 0 ∧ t.pfValid = false ∧
      t.effects = s.effects ++ [.sendBytes [P.escCode, P.bidCode],
        .sendBytes [P.escCode, P.bidCode], .sendBytes [P.escCode, P.bidCode],
        .status .transmissionFailure]

/-- R196: two naks and an ack of the frame re-send the payload twice and complete once, from a fresh
cycle, under either counter map. -/
def Obligations.TwoNaksThenAckResendTwice : Prop :=
  ∀ (P : Params) (s : State) (p : Bytes), s.Inv P → s.state = .idle → s.fault = 0 →
    p.length ≤ P.maxTxLen.val →
    ∃ t, runScript P [.event (.send p), .ackSeq, .nakSeq, .nakSeq, .ackSeq] s = .next t ∧
      t.state = .idle ∧
      t.effects = s.effects ++ [.sendBytes [P.escCode, P.bidCode], .sendBytes p, .sendBytes p,
        .sendBytes p, .status .transmissionComplete]

/-- R278: peer re-bids in BidAck restart the bid without bound and without a counter. -/
def Obligations.RebidsNeverTouchACounter : Prop :=
  ∀ (P : Params) (s : State) (n : Nat), s.state = .bidAck → s.fault = 0 →
    ∃ t, execSeq P (List.replicate n [Instr.lineBidByte2, .frameStartEscape]).flatten s = .next t ∧
      t.state = .bidAck ∧ t.c0 = s.c0 ∧ t.c1 = s.c1 ∧
      t.effects = s.effects ++ List.replicate n (.sendBytes [P.escCode, P.bidCode])

/-- R272: the bounded retries of one initiator cycle. From an invariant state a lost reply (or a nak of
the frame) either ends the cycle with its one failure status or adds one to the sum of the two
counters, which stays at most 4. -/
def Obligations.RetriesOfACycleAreBounded : Prop :=
  ∀ (P : Params) (s : State) (i : Instr), s.Inv P → s.state.role = .initiator →
    LostReply i s ∨ (i = .nakByte ∧ s.state = .frameAck) →
    ∃ t, execWith P i s = .next t ∧
      ((t.state = .idle ∧ t.effects = s.effects ++ [.status .transmissionFailure]) ∨
        (t.state.role = .initiator ∧
          t.c0.toNat + t.c1.toNat = s.c0.toNat + s.c1.toNat + 1 ∧ t.c0.toNat + t.c1.toNat ≤ 4))

/-! ### The Translator, runs and their reports -/

/-- R247: an arrival from the line appends exactly one word, which decodes to `LineError` for a transport
fault, to `DataByte` in a collecting state, and otherwise to the event of the control code or to
`DataByte`. Words stand on the path as the numbers of their bits (log entry 4). -/
def Obligations.TranslatorAppendsOneWord : Prop :=
  ∀ (P : Params) (s : State) (a : LineArrival), CodesDistinct P →
    ∃ q i, translatorStep P a s = { s with fifo := s.fifo ++ [q] } ∧
      q.word < 2 ^ (16 + P.tagW) ∧ decodeQueued P.tagW q = .ok i ∧
      (a.input = .transportFault → i = .lineError) ∧
      ∀ b, a.input = .byte b →
        (s.state = .lengthField ∨ s.state = .payload ∨ s.state = .checksum → i = .dataByte b) ∧
        (¬ (s.state = .lengthField ∨ s.state = .payload ∨ s.state = .checksum) →
          (b = P.escCode → i ∈ escapes) ∧ (b = P.bidCode → i = .lineBidByte2) ∧
          (b = P.startCode → i = .frameStartMarker) ∧ (b = P.endCode → i = .frameEndMarker) ∧
          (b = P.ackCode → i = .ackByte) ∧ (b = P.nakCode → i = .nakByte) ∧
          (b ∉ [P.escCode, P.bidCode, P.ackCode, P.nakCode, P.startCode, P.endCode] →
            i = .dataByte b))

/-- R270: every run from reset comes to its report, with the effects, the registers and the fault
register of its last state: the normal end when `fault = 0`, with no word and no move left, a faulted
run otherwise. That the moves stand in `sched` is the model's choice (log entry 11), and so is the form
of the report (log entry 25). -/
def Obligations.EveryRunIsReported : Prop :=
  ∀ (P : Params) (n : Nat) (fifo : List QueuedWord) (sched : List Move),
    Move.reset ∉ sched → 2 * sched.length + fifo.length ≤ n →
    ∃ t, runWith P n (State.resetWithin fifo sched) = .next t ∧
      (t.fault = 0 → t.fifo = [] ∧ t.sched = [] ∧
        runOutcome P n (State.resetWithin fifo sched) = .ended ⟨t.effects, t, 0⟩) ∧
      (t.fault ≠ 0 →
        runOutcome P n (State.resetWithin fifo sched) = .faulted ⟨t.effects, t, t.fault⟩)

/-- R234, R270: from a faulted state, whatever words arrive and however often the Deadline is due, the
registers and the effects stay those of the step that raised the fault and the run is reported as
faulted. That the moves stand in `sched` is the model's choice (log entry 11), and so is the form of
the report (log entry 25). -/
def Obligations.FaultedRunStaysFaulted : Prop :=
  ∀ (P : Params) (n : Nat) (start s : State), s.fault ≠ 0 → Move.reset ∉ s.sched →
    ∃ t, runWith P n s = .next t ∧ t = { s with fifo := t.fifo, sched := t.sched } ∧
      outcomeOf start (runWith P n s) =
        .faulted ⟨s.effects.drop start.effects.length, t, s.fault⟩

/-- R62, R260: no run tells apart two states that differ only in what no rule has written; the contents
after reset, which the model chooses (log entries 6, 7), are among these. The agents' order in `sched`
is the model's choice (log entry 11). -/
def Obligations.NoRunReadsWhatNoRuleWrote : Prop :=
  ∀ (P : Params) (n : Nat) (s t s' : State), s.Inv P → SameHeld s t → runWith P n s = .next s' →
    ∃ t', runWith P n t = .next t' ∧ SameHeld s' t'
end

