-- ==== Sys2Proof/Laws/Memory.lean ====
section
/-! SUPPORT. What a buffer access can do: read after write, the canonical form kept, and what a whole
prefix read answers (20_memory.md R60, R62). -/

namespace Sys2Proof.Machine

@[simp] theorem Memory.read_nil (x : Nat) : Memory.read [] x = unwrittenByte := rfl

theorem Memory.read_cons (a : Nat) (b : Byte) (m : Memory) (x : Nat) :
    Memory.read ((a, b) :: m) x = if a = x then b else Memory.read m x := rfl

/-- An erased address reads as an unlisted one, every other as before. -/
theorem Memory.read_erase (m : Memory) (x y : Nat) :
    Memory.read (Memory.erase m x) y = if y = x then unwrittenByte else Memory.read m y := by
  induction m with
  | nil => simp [Memory.erase]
  | cons c m ih =>
    obtain ⟨a, b⟩ := c
    by_cases ha : a = x
    · rw [show Memory.erase ((a, b) :: m) x = Memory.erase m x by simp [Memory.erase, ha], ih,
        Memory.read_cons]
      by_cases hy : y = x
      · rw [if_pos hy, if_pos hy]
      · rw [if_neg hy, if_neg hy, if_neg (fun h : a = y => hy (h.symm.trans ha))]
    · rw [show Memory.erase ((a, b) :: m) x = (a, b) :: Memory.erase m x by simp [Memory.erase, ha],
        Memory.read_cons, ih, Memory.read_cons]
      by_cases hy : a = y
      · rw [if_pos hy, if_pos hy, if_neg (fun h => ha (hy.trans h))]
      · rw [if_neg hy, if_neg hy]

/-- An inserted address reads its byte, every other as before. -/
theorem Memory.read_insert (m : Memory) (x y : Nat) (v : Byte) :
    Memory.read (Memory.insert m x v) y = if y = x then v else Memory.read m y := by
  induction m with
  | nil => simp [Memory.insert, Memory.read_cons, eq_comm]
  | cons c m ih =>
    obtain ⟨a, b⟩ := c
    by_cases h1 : x < a
    · simp [Memory.insert, h1, Memory.read_cons, eq_comm]
    · by_cases h2 : x = a
      · subst h2
        by_cases hy : y = x <;> simp [Memory.insert, Memory.read_cons, hy, Ne.symm]
      · simp only [Memory.insert, h1, h2, if_false, Memory.read_cons, ih]
        by_cases hy : a = y
        · rw [if_pos hy, if_pos hy, if_neg (fun h => h2 (h.symm.trans hy.symm))]
        · rw [if_neg hy, if_neg hy]

/-- Read after write, in one line: the written address reads the value, every other as before. -/
theorem Memory.read_write (m : Memory) (x y : Nat) (v : Byte) :
    Memory.read (Memory.write m x v) y = if y = x then v else Memory.read m y := by
  unfold Memory.write
  split
  · next h => rw [Memory.read_erase, h]
  · exact Memory.read_insert m x y v

/-- Consecutive writes: the written range reads the sequence, every other address as before. -/
theorem Memory.read_writeSeq (p : Bytes) (m : Memory) (x y : Nat) :
    Memory.read (Memory.writeSeq m x p) y =
      if x ≤ y then (p[y - x]?).getD (Memory.read m y) else Memory.read m y := by
  induction p generalizing m x with
  | nil => simp [Memory.writeSeq]
  | cons v vs ih =>
    simp only [Memory.writeSeq, ih, Memory.read_write]
    by_cases hy : y = x
    · subst hy; simp
    · by_cases hx : x ≤ y
      · obtain ⟨k, rfl⟩ : ∃ k, y = x + 1 + k := ⟨y - (x + 1), by omega⟩
        have e1 : x + 1 + k - x = k + 1 := by omega
        have e2 : x + 1 + k - (x + 1) = k := by omega
        rw [if_pos (by omega), if_pos hx, if_neg hy, e1, e2, List.getElem?_cons_succ]
      · rw [if_neg (by omega), if_neg hx, if_neg hy]

/-! ### The canonical form -/

theorem Memory.wf_cons (a : Nat) (b : Byte) (m : Memory) :
    Memory.wf ((a, b) :: m) = true ↔
      b ≠ unwrittenByte ∧ (∀ c ∈ m, a < c.1) ∧ Memory.wf m = true := by
  simp [Memory.wf, and_assoc]

theorem Memory.mem_erase {m : Memory} {x : Nat} {c : Host.Cell} (h : c ∈ Memory.erase m x) :
    c ∈ m := (List.mem_filter.mp h).1

theorem Memory.mem_insert {m : Memory} {x : Nat} {v : Byte} {c : Host.Cell}
    (h : c ∈ Memory.insert m x v) : c = (x, v) ∨ c ∈ m := by
  induction m with
  | nil => simpa [Memory.insert] using h
  | cons e m ih =>
    obtain ⟨a, b⟩ := e
    by_cases h1 : x < a
    · simpa [Memory.insert, h1] using h
    · by_cases h2 : x = a
      · simp only [Memory.insert, h2, lt_irrefl, if_false, if_true, List.mem_cons] at h ⊢
        tauto
      · simp only [Memory.insert, h1, h2, if_false, List.mem_cons] at h ⊢
        rcases h with h | h
        · exact .inr (.inl h)
        · exact (ih h).imp id .inr

/-- A write lists nothing but the written byte and what was listed. -/
theorem Memory.mem_write {m : Memory} {x : Nat} {v : Byte} {c : Host.Cell}
    (h : c ∈ Memory.write m x v) : c = (x, v) ∨ c ∈ m := by
  unfold Memory.write at h
  split at h
  · exact .inr (Memory.mem_erase h)
  · exact Memory.mem_insert h

theorem Memory.wf_erase {m : Memory} (x : Nat) (h : Memory.wf m = true) :
    Memory.wf (Memory.erase m x) = true := by
  induction m with
  | nil => rfl
  | cons e m ih =>
    obtain ⟨a, b⟩ := e
    obtain ⟨hb, ha, hm⟩ := (Memory.wf_cons a b m).mp h
    by_cases h1 : a = x
    · rw [show Memory.erase ((a, b) :: m) x = Memory.erase m x by simp [Memory.erase, h1]]
      exact ih hm
    · rw [show Memory.erase ((a, b) :: m) x = (a, b) :: Memory.erase m x by simp [Memory.erase, h1]]
      exact (Memory.wf_cons _ _ _).mpr ⟨hb, fun c hc => ha c (Memory.mem_erase hc), ih hm⟩

theorem Memory.wf_insert {m : Memory} (x : Nat) {v : Byte} (hv : v ≠ unwrittenByte)
    (h : Memory.wf m = true) : Memory.wf (Memory.insert m x v) = true := by
  induction m with
  | nil => exact (Memory.wf_cons _ _ _).mpr ⟨hv, fun c hc => absurd hc List.not_mem_nil, rfl⟩
  | cons e m ih =>
    obtain ⟨a, b⟩ := e
    obtain ⟨hb, ha, hm⟩ := (Memory.wf_cons a b m).mp h
    by_cases h1 : x < a
    · rw [show Memory.insert ((a, b) :: m) x v = (x, v) :: (a, b) :: m by simp [Memory.insert, h1]]
      refine (Memory.wf_cons _ _ _).mpr ⟨hv, fun c hc => ?_, h⟩
      rcases List.mem_cons.mp hc with rfl | hc
      · exact h1
      · exact lt_trans h1 (ha c hc)
    · by_cases h2 : x = a
      · rw [show Memory.insert ((a, b) :: m) x v = (x, v) :: m by simp [Memory.insert, h2]]
        exact (Memory.wf_cons _ _ _).mpr ⟨hv, h2 ▸ ha, hm⟩
      · rw [show Memory.insert ((a, b) :: m) x v = (a, b) :: Memory.insert m x v by
          simp [Memory.insert, h1, h2]]
        refine (Memory.wf_cons _ _ _).mpr ⟨hb, fun c hc => ?_, ih hm⟩
        rcases Memory.mem_insert hc with rfl | hc
        · show a < x
          omega
        · exact ha c hc

/-- A write keeps the canonical form. -/
theorem Memory.wf_write {m : Memory} (x : Nat) (v : Byte) (h : Memory.wf m = true) :
    Memory.wf (Memory.write m x v) = true := by
  unfold Memory.write
  split
  · exact Memory.wf_erase x h
  · next hv => exact Memory.wf_insert x hv h

/-- Consecutive writes keep the canonical form. -/
theorem Memory.wf_writeSeq (p : Bytes) {m : Memory} (x : Nat) (h : Memory.wf m = true) :
    Memory.wf (Memory.writeSeq m x p) = true := by
  induction p generalizing m x with
  | nil => exact h
  | cons v vs ih => exact ih _ (Memory.wf_write x v h)

@[simp] theorem Memory.withinSize_nil (n : Nat) : Memory.WithinSize [] n :=
  fun _ h => absurd h List.not_mem_nil

/-- Writes below a bound keep every listed address below it. -/
theorem Memory.within_write {m : Memory} {n x : Nat} (v : Byte) (h : Memory.WithinSize m n)
    (hx : x < n) : Memory.WithinSize (Memory.write m x v) n := by
  intro c hc
  rcases Memory.mem_write hc with rfl | hc
  · exact hx
  · exact h c hc

theorem Memory.within_writeSeq (p : Bytes) {m : Memory} {n x : Nat} (h : Memory.WithinSize m n)
    (hx : x + p.length ≤ n) : Memory.WithinSize (Memory.writeSeq m x p) n := by
  induction p generalizing m x with
  | nil => exact h
  | cons v vs ih =>
    rw [List.length_cons] at hx
    exact ih (Memory.within_write v h (by omega)) (by omega)

/-- Canonical memories that read alike are equal: nothing is listed that a read cannot tell. -/
theorem Memory.eq_of_read_eq {m m' : Memory} (h : Memory.wf m = true) (h' : Memory.wf m' = true)
    (hr : ∀ x, Memory.read m x = Memory.read m' x) : m = m' := by
  have unlisted : ∀ {m : Memory} {x : Nat}, (∀ c ∈ m, x < c.1) → Memory.read m x = unwrittenByte := by
    intro m x hm
    induction m with
    | nil => rfl
    | cons c m ih =>
      obtain ⟨a, b⟩ := c
      have := hm (a, b) List.mem_cons_self
      rw [Memory.read_cons, if_neg (by simp only at this; omega)]
      exact ih fun c hc => hm c (List.mem_cons_of_mem _ hc)
  induction m generalizing m' with
  | nil =>
    cases m' with
    | nil => rfl
    | cons c m' =>
      obtain ⟨a, b⟩ := c
      have := hr a
      rw [Memory.read_cons, if_pos rfl] at this
      exact absurd this.symm ((Memory.wf_cons _ _ _).mp h').1
  | cons c m ih =>
    obtain ⟨a, b⟩ := c
    obtain ⟨hb, ha, hm⟩ := (Memory.wf_cons a b m).mp h
    cases m' with
    | nil =>
      have := hr a
      rw [Memory.read_cons, if_pos rfl] at this
      exact absurd this hb
    | cons c' m' =>
      obtain ⟨a', b'⟩ := c'
      obtain ⟨hb', ha', hm'⟩ := (Memory.wf_cons a' b' m').mp h'
      have haa : a = a' := by
        rcases lt_trichotomy a a' with hlt | heq | hgt
        · have := hr a
          rw [Memory.read_cons, if_pos rfl, unlisted (m := (a', b') :: m') fun c hc => by
            rcases List.mem_cons.mp hc with rfl | hc
            · exact hlt
            · exact lt_trans hlt (ha' c hc)] at this
          exact absurd this hb
        · exact heq
        · have := hr a'
          rw [Memory.read_cons (a := a') (x := a'), if_pos rfl, unlisted (m := (a, b) :: m)
            fun c hc => by
              rcases List.mem_cons.mp hc with rfl | hc
              · exact hgt
              · exact lt_trans hgt (ha c hc)] at this
          exact absurd this.symm hb'
      subst haa
      have hbb : b = b' := by
        have := hr a
        rwa [Memory.read_cons, if_pos rfl, Memory.read_cons, if_pos rfl] at this
      rw [hbb, ih hm hm' fun x => ?_]
      by_cases hx : a = x
      · subst hx; rw [unlisted ha, unlisted ha']
      · have := hr x
        rwa [Memory.read_cons, if_neg hx, Memory.read_cons, if_neg hx] at this

/-! ### Prefix reads -/

/-- What consecutive reads answer. -/
theorem Memory.readSeq_eq {m : Memory} {x n : Nat} {bs : Bytes} :
    Memory.readSeq m x n = bs ↔
      bs.length = n ∧ ∀ i, i < n → bs[i]? = some (Memory.read m (x + i)) := by
  induction n generalizing x bs with
  | zero =>
    simp only [Memory.readSeq, Nat.not_lt_zero, false_implies, implies_true, and_true]
    exact ⟨fun h => h ▸ rfl, fun h => (List.eq_nil_of_length_eq_zero h).symm⟩
  | succ n ih =>
    cases bs with
    | nil => simp [Memory.readSeq]
    | cons b bs =>
      simp only [Memory.readSeq, List.cons.injEq, ih, List.length_cons, Nat.add_right_cancel_iff]
      constructor
      · rintro ⟨rfl, hl, hi⟩
        refine ⟨hl, fun i h => ?_⟩
        cases i with
        | zero => rfl
        | succ i => rw [List.getElem?_cons_succ, hi i (by omega)]; congr 2; omega
      · rintro ⟨hl, hi⟩
        refine ⟨by simpa using (hi 0 (by omega)).symm, hl, fun i h => ?_⟩
        have := hi (i + 1) (by omega)
        rw [List.getElem?_cons_succ] at this
        rw [this]; congr 2; omega

/-- A prefix read succeeds exactly when the prefix lies in the space, and answers its bytes. -/
theorem memRead_ok {P : Params} {sp : Space} {m : Memory} {n : Nat} {bs : Bytes} :
    memRead P sp m n = .ok bs ↔
      n ≤ sp.size P ∧ bs.length = n ∧ ∀ i, i < n → bs[i]? = some (Memory.read m i) := by
  unfold memRead
  by_cases h : sp.size P < n
  · simp [h]
  · rw [if_neg h, Except.ok.injEq, Memory.readSeq_eq]
    simp only [Nat.zero_add]
    exact ⟨fun e => ⟨by omega, e⟩, fun e => e.2⟩

/-- A prefix within the space can be read (R60). -/
theorem memRead_within {P : Params} {sp : Space} (m : Memory) {n : Nat} (hn : n ≤ sp.size P) :
    memRead P sp m n = .ok (Memory.readSeq m 0 n) := if_neg (by omega)

/-- The stored payload reads back as `Send` gave it (R122, R190). -/
theorem memRead_writeSeq {P : Params} {sp : Space} (m : Memory) (p : Bytes)
    (hn : p.length ≤ sp.size P) : memRead P sp (Memory.writeSeq m 0 p) p.length = .ok p := by
  refine memRead_ok.mpr ⟨hn, rfl, fun i hi => ?_⟩
  rw [Memory.read_writeSeq]
  simp [hi]

end Sys2Proof.Machine
end

