-- ==== Sys2Proof/Laws/State.lean ====
section
/-! SUPPORT. One lemma per field per named update of State, so that no later proof unfolds a record
update. -/

namespace Sys2Proof.Machine

/-! ### emit -/
@[simp] theorem emit_state (e : Effect) (s : State) : (emit e s).state = s.state := rfl
@[simp] theorem emit_c0 (e : Effect) (s : State) : (emit e s).c0 = s.c0 := rfl
@[simp] theorem emit_c1 (e : Effect) (s : State) : (emit e s).c1 = s.c1 := rfl
@[simp] theorem emit_dlArmed (e : Effect) (s : State) : (emit e s).dlArmed = s.dlArmed := rfl
@[simp] theorem emit_dlTag (e : Effect) (s : State) : (emit e s).dlTag = s.dlTag := rfl
@[simp] theorem emit_dlFired (e : Effect) (s : State) : (emit e s).dlFired = s.dlFired := rfl
@[simp] theorem emit_lenCount (e : Effect) (s : State) : (emit e s).lenCount = s.lenCount := rfl
@[simp] theorem emit_lenbuf (e : Effect) (s : State) : (emit e s).lenbuf = s.lenbuf := rfl
@[simp] theorem emit_rxLen (e : Effect) (s : State) : (emit e s).rxLen = s.rxLen := rfl
@[simp] theorem emit_dataCount (e : Effect) (s : State) : (emit e s).dataCount = s.dataCount := rfl
@[simp] theorem emit_databuf (e : Effect) (s : State) : (emit e s).databuf = s.databuf := rfl
@[simp] theorem emit_crcCount (e : Effect) (s : State) : (emit e s).crcCount = s.crcCount := rfl
@[simp] theorem emit_crcbuf (e : Effect) (s : State) : (emit e s).crcbuf = s.crcbuf := rfl
@[simp] theorem emit_pfValid (e : Effect) (s : State) : (emit e s).pfValid = s.pfValid := rfl
@[simp] theorem emit_pfLen (e : Effect) (s : State) : (emit e s).pfLen = s.pfLen := rfl
@[simp] theorem emit_pfBytes (e : Effect) (s : State) : (emit e s).pfBytes = s.pfBytes := rfl
@[simp] theorem emit_fault (e : Effect) (s : State) : (emit e s).fault = s.fault := rfl
@[simp] theorem emit_fifo (e : Effect) (s : State) : (emit e s).fifo = s.fifo := rfl
@[simp] theorem emit_effects (e : Effect) (s : State) : (emit e s).effects = s.effects ++ [e] := rfl
@[simp] theorem emit_sched (e : Effect) (s : State) : (emit e s).sched = s.sched := rfl

/-! ### raiseFault -/
@[simp] theorem raiseFault_state (c : FaultCode) (s : State) : (raiseFault c s).state = s.state := rfl
@[simp] theorem raiseFault_c0 (c : FaultCode) (s : State) : (raiseFault c s).c0 = s.c0 := rfl
@[simp] theorem raiseFault_c1 (c : FaultCode) (s : State) : (raiseFault c s).c1 = s.c1 := rfl
@[simp] theorem raiseFault_dlArmed (c : FaultCode) (s : State) : (raiseFault c s).dlArmed = s.dlArmed := rfl
@[simp] theorem raiseFault_dlTag (c : FaultCode) (s : State) : (raiseFault c s).dlTag = s.dlTag := rfl
@[simp] theorem raiseFault_dlFired (c : FaultCode) (s : State) : (raiseFault c s).dlFired = s.dlFired := rfl
@[simp] theorem raiseFault_lenCount (c : FaultCode) (s : State) : (raiseFault c s).lenCount = s.lenCount := rfl
@[simp] theorem raiseFault_lenbuf (c : FaultCode) (s : State) : (raiseFault c s).lenbuf = s.lenbuf := rfl
@[simp] theorem raiseFault_rxLen (c : FaultCode) (s : State) : (raiseFault c s).rxLen = s.rxLen := rfl
@[simp] theorem raiseFault_dataCount (c : FaultCode) (s : State) : (raiseFault c s).dataCount = s.dataCount := rfl
@[simp] theorem raiseFault_databuf (c : FaultCode) (s : State) : (raiseFault c s).databuf = s.databuf := rfl
@[simp] theorem raiseFault_crcCount (c : FaultCode) (s : State) : (raiseFault c s).crcCount = s.crcCount := rfl
@[simp] theorem raiseFault_crcbuf (c : FaultCode) (s : State) : (raiseFault c s).crcbuf = s.crcbuf := rfl
@[simp] theorem raiseFault_pfValid (c : FaultCode) (s : State) : (raiseFault c s).pfValid = s.pfValid := rfl
@[simp] theorem raiseFault_pfLen (c : FaultCode) (s : State) : (raiseFault c s).pfLen = s.pfLen := rfl
@[simp] theorem raiseFault_pfBytes (c : FaultCode) (s : State) : (raiseFault c s).pfBytes = s.pfBytes := rfl
@[simp] theorem raiseFault_fault (c : FaultCode) (s : State) : (raiseFault c s).fault = s.fault ||| c.mask := rfl
@[simp] theorem raiseFault_fifo (c : FaultCode) (s : State) : (raiseFault c s).fifo = s.fifo := rfl
@[simp] theorem raiseFault_effects (c : FaultCode) (s : State) : (raiseFault c s).effects = s.effects := rfl
@[simp] theorem raiseFault_sched (c : FaultCode) (s : State) : (raiseFault c s).sched = s.sched := rfl

/-! ### assemblyReset -/
@[simp] theorem assemblyReset_state (s : State) : (assemblyReset s).state = s.state := rfl
@[simp] theorem assemblyReset_c0 (s : State) : (assemblyReset s).c0 = s.c0 := rfl
@[simp] theorem assemblyReset_c1 (s : State) : (assemblyReset s).c1 = s.c1 := rfl
@[simp] theorem assemblyReset_dlArmed (s : State) : (assemblyReset s).dlArmed = s.dlArmed := rfl
@[simp] theorem assemblyReset_dlTag (s : State) : (assemblyReset s).dlTag = s.dlTag := rfl
@[simp] theorem assemblyReset_dlFired (s : State) : (assemblyReset s).dlFired = s.dlFired := rfl
@[simp] theorem assemblyReset_lenCount (s : State) : (assemblyReset s).lenCount = 0 := rfl
@[simp] theorem assemblyReset_lenbuf (s : State) : (assemblyReset s).lenbuf = s.lenbuf := rfl
@[simp] theorem assemblyReset_rxLen (s : State) : (assemblyReset s).rxLen = s.rxLen := rfl
@[simp] theorem assemblyReset_dataCount (s : State) : (assemblyReset s).dataCount = 0 := rfl
@[simp] theorem assemblyReset_databuf (s : State) : (assemblyReset s).databuf = s.databuf := rfl
@[simp] theorem assemblyReset_crcCount (s : State) : (assemblyReset s).crcCount = 0 := rfl
@[simp] theorem assemblyReset_crcbuf (s : State) : (assemblyReset s).crcbuf = s.crcbuf := rfl
@[simp] theorem assemblyReset_pfValid (s : State) : (assemblyReset s).pfValid = s.pfValid := rfl
@[simp] theorem assemblyReset_pfLen (s : State) : (assemblyReset s).pfLen = s.pfLen := rfl
@[simp] theorem assemblyReset_pfBytes (s : State) : (assemblyReset s).pfBytes = s.pfBytes := rfl
@[simp] theorem assemblyReset_fault (s : State) : (assemblyReset s).fault = s.fault := rfl
@[simp] theorem assemblyReset_fifo (s : State) : (assemblyReset s).fifo = s.fifo := rfl
@[simp] theorem assemblyReset_effects (s : State) : (assemblyReset s).effects = s.effects := rfl
@[simp] theorem assemblyReset_sched (s : State) : (assemblyReset s).sched = s.sched := rfl

/-! ### idleEntry -/
@[simp] theorem idleEntry_state (s : State) : (idleEntry s).state = .idle := rfl
@[simp] theorem idleEntry_c0 (s : State) : (idleEntry s).c0 = 0 := rfl
@[simp] theorem idleEntry_c1 (s : State) : (idleEntry s).c1 = 0 := rfl
@[simp] theorem idleEntry_dlArmed (s : State) : (idleEntry s).dlArmed = false := rfl
@[simp] theorem idleEntry_dlTag (s : State) : (idleEntry s).dlTag = s.dlTag := rfl
@[simp] theorem idleEntry_dlFired (s : State) : (idleEntry s).dlFired = false := rfl
@[simp] theorem idleEntry_lenCount (s : State) : (idleEntry s).lenCount = 0 := rfl
@[simp] theorem idleEntry_lenbuf (s : State) : (idleEntry s).lenbuf = s.lenbuf := rfl
@[simp] theorem idleEntry_rxLen (s : State) : (idleEntry s).rxLen = s.rxLen := rfl
@[simp] theorem idleEntry_dataCount (s : State) : (idleEntry s).dataCount = 0 := rfl
@[simp] theorem idleEntry_databuf (s : State) : (idleEntry s).databuf = s.databuf := rfl
@[simp] theorem idleEntry_crcCount (s : State) : (idleEntry s).crcCount = 0 := rfl
@[simp] theorem idleEntry_crcbuf (s : State) : (idleEntry s).crcbuf = s.crcbuf := rfl
@[simp] theorem idleEntry_pfValid (s : State) : (idleEntry s).pfValid = false := rfl
@[simp] theorem idleEntry_pfLen (s : State) : (idleEntry s).pfLen = s.pfLen := rfl
@[simp] theorem idleEntry_pfBytes (s : State) : (idleEntry s).pfBytes = s.pfBytes := rfl
@[simp] theorem idleEntry_fault (s : State) : (idleEntry s).fault = s.fault := rfl
@[simp] theorem idleEntry_fifo (s : State) : (idleEntry s).fifo = s.fifo := rfl
@[simp] theorem idleEntry_effects (s : State) : (idleEntry s).effects = s.effects := rfl
@[simp] theorem idleEntry_sched (s : State) : (idleEntry s).sched = s.sched := rfl

/-! ### storePending -/
@[simp] theorem storePending_state (p : Bytes) (s : State) : (storePending p s).state = s.state := rfl
@[simp] theorem storePending_c0 (p : Bytes) (s : State) : (storePending p s).c0 = s.c0 := rfl
@[simp] theorem storePending_c1 (p : Bytes) (s : State) : (storePending p s).c1 = s.c1 := rfl
@[simp] theorem storePending_dlArmed (p : Bytes) (s : State) : (storePending p s).dlArmed = s.dlArmed := rfl
@[simp] theorem storePending_dlTag (p : Bytes) (s : State) : (storePending p s).dlTag = s.dlTag := rfl
@[simp] theorem storePending_dlFired (p : Bytes) (s : State) : (storePending p s).dlFired = s.dlFired := rfl
@[simp] theorem storePending_lenCount (p : Bytes) (s : State) : (storePending p s).lenCount = s.lenCount := rfl
@[simp] theorem storePending_lenbuf (p : Bytes) (s : State) : (storePending p s).lenbuf = s.lenbuf := rfl
@[simp] theorem storePending_rxLen (p : Bytes) (s : State) : (storePending p s).rxLen = s.rxLen := rfl
@[simp] theorem storePending_dataCount (p : Bytes) (s : State) : (storePending p s).dataCount = s.dataCount := rfl
@[simp] theorem storePending_databuf (p : Bytes) (s : State) : (storePending p s).databuf = s.databuf := rfl
@[simp] theorem storePending_crcCount (p : Bytes) (s : State) : (storePending p s).crcCount = s.crcCount := rfl
@[simp] theorem storePending_crcbuf (p : Bytes) (s : State) : (storePending p s).crcbuf = s.crcbuf := rfl
@[simp] theorem storePending_pfValid (p : Bytes) (s : State) : (storePending p s).pfValid = true := rfl
@[simp] theorem storePending_pfLen (p : Bytes) (s : State) : (storePending p s).pfLen = BitVec.ofNat 16 p.length := rfl
@[simp] theorem storePending_pfBytes (p : Bytes) (s : State) : (storePending p s).pfBytes = Memory.writeSeq s.pfBytes 0 p := rfl
@[simp] theorem storePending_fault (p : Bytes) (s : State) : (storePending p s).fault = s.fault := rfl
@[simp] theorem storePending_fifo (p : Bytes) (s : State) : (storePending p s).fifo = s.fifo := rfl
@[simp] theorem storePending_effects (p : Bytes) (s : State) : (storePending p s).effects = s.effects := rfl
@[simp] theorem storePending_sched (p : Bytes) (s : State) : (storePending p s).sched = s.sched := rfl

/-! ### offerWord -/
@[simp] theorem offerWord_state (q : QueuedWord) (s : State) : (offerWord q s).state = s.state := rfl
@[simp] theorem offerWord_c0 (q : QueuedWord) (s : State) : (offerWord q s).c0 = s.c0 := rfl
@[simp] theorem offerWord_c1 (q : QueuedWord) (s : State) : (offerWord q s).c1 = s.c1 := rfl
@[simp] theorem offerWord_dlArmed (q : QueuedWord) (s : State) : (offerWord q s).dlArmed = s.dlArmed := rfl
@[simp] theorem offerWord_dlTag (q : QueuedWord) (s : State) : (offerWord q s).dlTag = s.dlTag := rfl
@[simp] theorem offerWord_dlFired (q : QueuedWord) (s : State) : (offerWord q s).dlFired = s.dlFired := rfl
@[simp] theorem offerWord_lenCount (q : QueuedWord) (s : State) : (offerWord q s).lenCount = s.lenCount := rfl
@[simp] theorem offerWord_lenbuf (q : QueuedWord) (s : State) : (offerWord q s).lenbuf = s.lenbuf := rfl
@[simp] theorem offerWord_rxLen (q : QueuedWord) (s : State) : (offerWord q s).rxLen = s.rxLen := rfl
@[simp] theorem offerWord_dataCount (q : QueuedWord) (s : State) : (offerWord q s).dataCount = s.dataCount := rfl
@[simp] theorem offerWord_databuf (q : QueuedWord) (s : State) : (offerWord q s).databuf = s.databuf := rfl
@[simp] theorem offerWord_crcCount (q : QueuedWord) (s : State) : (offerWord q s).crcCount = s.crcCount := rfl
@[simp] theorem offerWord_crcbuf (q : QueuedWord) (s : State) : (offerWord q s).crcbuf = s.crcbuf := rfl
@[simp] theorem offerWord_pfValid (q : QueuedWord) (s : State) : (offerWord q s).pfValid = s.pfValid := rfl
@[simp] theorem offerWord_pfLen (q : QueuedWord) (s : State) : (offerWord q s).pfLen = s.pfLen := rfl
@[simp] theorem offerWord_pfBytes (q : QueuedWord) (s : State) : (offerWord q s).pfBytes = s.pfBytes := rfl
@[simp] theorem offerWord_fault (q : QueuedWord) (s : State) : (offerWord q s).fault = s.fault := rfl
@[simp] theorem offerWord_fifo (q : QueuedWord) (s : State) : (offerWord q s).fifo = s.fifo ++ [q] := rfl
@[simp] theorem offerWord_effects (q : QueuedWord) (s : State) : (offerWord q s).effects = s.effects := rfl
@[simp] theorem offerWord_sched (q : QueuedWord) (s : State) : (offerWord q s).sched = s.sched := rfl

/-! ### assertReset -/
@[simp] theorem assertReset_state (s : State) : (assertReset s).state = State.reset.state := rfl
@[simp] theorem assertReset_c0 (s : State) : (assertReset s).c0 = State.reset.c0 := rfl
@[simp] theorem assertReset_c1 (s : State) : (assertReset s).c1 = State.reset.c1 := rfl
@[simp] theorem assertReset_dlArmed (s : State) : (assertReset s).dlArmed = State.reset.dlArmed := rfl
@[simp] theorem assertReset_dlTag (s : State) : (assertReset s).dlTag = State.reset.dlTag := rfl
@[simp] theorem assertReset_dlFired (s : State) : (assertReset s).dlFired = State.reset.dlFired := rfl
@[simp] theorem assertReset_lenCount (s : State) : (assertReset s).lenCount = State.reset.lenCount := rfl
@[simp] theorem assertReset_lenbuf (s : State) : (assertReset s).lenbuf = State.reset.lenbuf := rfl
@[simp] theorem assertReset_rxLen (s : State) : (assertReset s).rxLen = State.reset.rxLen := rfl
@[simp] theorem assertReset_dataCount (s : State) : (assertReset s).dataCount = State.reset.dataCount := rfl
@[simp] theorem assertReset_databuf (s : State) : (assertReset s).databuf = State.reset.databuf := rfl
@[simp] theorem assertReset_crcCount (s : State) : (assertReset s).crcCount = State.reset.crcCount := rfl
@[simp] theorem assertReset_crcbuf (s : State) : (assertReset s).crcbuf = State.reset.crcbuf := rfl
@[simp] theorem assertReset_pfValid (s : State) : (assertReset s).pfValid = State.reset.pfValid := rfl
@[simp] theorem assertReset_pfLen (s : State) : (assertReset s).pfLen = State.reset.pfLen := rfl
@[simp] theorem assertReset_pfBytes (s : State) : (assertReset s).pfBytes = State.reset.pfBytes := rfl
@[simp] theorem assertReset_fault (s : State) : (assertReset s).fault = State.reset.fault := rfl
@[simp] theorem assertReset_fifo (s : State) : (assertReset s).fifo = s.fifo := rfl
@[simp] theorem assertReset_effects (s : State) : (assertReset s).effects = s.effects := rfl
@[simp] theorem assertReset_sched (s : State) : (assertReset s).sched = s.sched := rfl

/-! ### placeWord -/
@[simp] theorem placeWord_state (q : QueuedWord) (s : State) : (placeWord q s).state = s.state := rfl
@[simp] theorem placeWord_c0 (q : QueuedWord) (s : State) : (placeWord q s).c0 = s.c0 := rfl
@[simp] theorem placeWord_c1 (q : QueuedWord) (s : State) : (placeWord q s).c1 = s.c1 := rfl
@[simp] theorem placeWord_dlArmed (q : QueuedWord) (s : State) : (placeWord q s).dlArmed = s.dlArmed := rfl
@[simp] theorem placeWord_dlTag (q : QueuedWord) (s : State) : (placeWord q s).dlTag = s.dlTag := rfl
@[simp] theorem placeWord_dlFired (q : QueuedWord) (s : State) : (placeWord q s).dlFired = s.dlFired := rfl
@[simp] theorem placeWord_lenCount (q : QueuedWord) (s : State) : (placeWord q s).lenCount = s.lenCount := rfl
@[simp] theorem placeWord_lenbuf (q : QueuedWord) (s : State) : (placeWord q s).lenbuf = s.lenbuf := rfl
@[simp] theorem placeWord_rxLen (q : QueuedWord) (s : State) : (placeWord q s).rxLen = s.rxLen := rfl
@[simp] theorem placeWord_dataCount (q : QueuedWord) (s : State) : (placeWord q s).dataCount = s.dataCount := rfl
@[simp] theorem placeWord_databuf (q : QueuedWord) (s : State) : (placeWord q s).databuf = s.databuf := rfl
@[simp] theorem placeWord_crcCount (q : QueuedWord) (s : State) : (placeWord q s).crcCount = s.crcCount := rfl
@[simp] theorem placeWord_crcbuf (q : QueuedWord) (s : State) : (placeWord q s).crcbuf = s.crcbuf := rfl
@[simp] theorem placeWord_pfValid (q : QueuedWord) (s : State) : (placeWord q s).pfValid = s.pfValid := rfl
@[simp] theorem placeWord_pfLen (q : QueuedWord) (s : State) : (placeWord q s).pfLen = s.pfLen := rfl
@[simp] theorem placeWord_pfBytes (q : QueuedWord) (s : State) : (placeWord q s).pfBytes = s.pfBytes := rfl
@[simp] theorem placeWord_fault (q : QueuedWord) (s : State) : (placeWord q s).fault = 0 := rfl
@[simp] theorem placeWord_fifo (q : QueuedWord) (s : State) : (placeWord q s).fifo = q :: s.fifo := rfl
@[simp] theorem placeWord_effects (q : QueuedWord) (s : State) : (placeWord q s).effects = s.effects := rfl
@[simp] theorem placeWord_sched (q : QueuedWord) (s : State) : (placeWord q s).sched = .deliver :: s.sched := rfl

/-! ### Counter.write -/
@[simp] theorem Counter.write_state (c : Counter) (v : BitVec 2) (s : State) : (Counter.write c v s).state = s.state := by cases c <;> rfl
@[simp] theorem Counter.write_c0 (c : Counter) (v : BitVec 2) (s : State) : (Counter.write c v s).c0 = match c with | .c0 => v | .c1 => s.c0 := by cases c <;> rfl
@[simp] theorem Counter.write_c1 (c : Counter) (v : BitVec 2) (s : State) : (Counter.write c v s).c1 = match c with | .c0 => s.c1 | .c1 => v := by cases c <;> rfl
@[simp] theorem Counter.write_dlArmed (c : Counter) (v : BitVec 2) (s : State) : (Counter.write c v s).dlArmed = s.dlArmed := by cases c <;> rfl
@[simp] theorem Counter.write_dlTag (c : Counter) (v : BitVec 2) (s : State) : (Counter.write c v s).dlTag = s.dlTag := by cases c <;> rfl
@[simp] theorem Counter.write_dlFired (c : Counter) (v : BitVec 2) (s : State) : (Counter.write c v s).dlFired = s.dlFired := by cases c <;> rfl
@[simp] theorem Counter.write_lenCount (c : Counter) (v : BitVec 2) (s : State) : (Counter.write c v s).lenCount = s.lenCount := by cases c <;> rfl
@[simp] theorem Counter.write_lenbuf (c : Counter) (v : BitVec 2) (s : State) : (Counter.write c v s).lenbuf = s.lenbuf := by cases c <;> rfl
@[simp] theorem Counter.write_rxLen (c : Counter) (v : BitVec 2) (s : State) : (Counter.write c v s).rxLen = s.rxLen := by cases c <;> rfl
@[simp] theorem Counter.write_dataCount (c : Counter) (v : BitVec 2) (s : State) : (Counter.write c v s).dataCount = s.dataCount := by cases c <;> rfl
@[simp] theorem Counter.write_databuf (c : Counter) (v : BitVec 2) (s : State) : (Counter.write c v s).databuf = s.databuf := by cases c <;> rfl
@[simp] theorem Counter.write_crcCount (c : Counter) (v : BitVec 2) (s : State) : (Counter.write c v s).crcCount = s.crcCount := by cases c <;> rfl
@[simp] theorem Counter.write_crcbuf (c : Counter) (v : BitVec 2) (s : State) : (Counter.write c v s).crcbuf = s.crcbuf := by cases c <;> rfl
@[simp] theorem Counter.write_pfValid (c : Counter) (v : BitVec 2) (s : State) : (Counter.write c v s).pfValid = s.pfValid := by cases c <;> rfl
@[simp] theorem Counter.write_pfLen (c : Counter) (v : BitVec 2) (s : State) : (Counter.write c v s).pfLen = s.pfLen := by cases c <;> rfl
@[simp] theorem Counter.write_pfBytes (c : Counter) (v : BitVec 2) (s : State) : (Counter.write c v s).pfBytes = s.pfBytes := by cases c <;> rfl
@[simp] theorem Counter.write_fault (c : Counter) (v : BitVec 2) (s : State) : (Counter.write c v s).fault = s.fault := by cases c <;> rfl
@[simp] theorem Counter.write_fifo (c : Counter) (v : BitVec 2) (s : State) : (Counter.write c v s).fifo = s.fifo := by cases c <;> rfl
@[simp] theorem Counter.write_effects (c : Counter) (v : BitVec 2) (s : State) : (Counter.write c v s).effects = s.effects := by cases c <;> rfl
@[simp] theorem Counter.write_sched (c : Counter) (v : BitVec 2) (s : State) : (Counter.write c v s).sched = s.sched := by cases c <;> rfl

/-! ### deadlineEnter -/
@[simp] theorem deadlineEnter_state (P : Params) (S : EngineState) (s : State) : (deadlineEnter P S s).state = s.state := by
  unfold deadlineEnter; cases arming P S <;> rfl
@[simp] theorem deadlineEnter_c0 (P : Params) (S : EngineState) (s : State) : (deadlineEnter P S s).c0 = s.c0 := by
  unfold deadlineEnter; cases arming P S <;> rfl
@[simp] theorem deadlineEnter_c1 (P : Params) (S : EngineState) (s : State) : (deadlineEnter P S s).c1 = s.c1 := by
  unfold deadlineEnter; cases arming P S <;> rfl
@[simp] theorem deadlineEnter_dlArmed (P : Params) (S : EngineState) (s : State) : (deadlineEnter P S s).dlArmed = arming P S := by
  unfold deadlineEnter; cases arming P S <;> rfl
@[simp] theorem deadlineEnter_dlTag (P : Params) (S : EngineState) (s : State) : (deadlineEnter P S s).dlTag = if arming P S then (s.dlTag + 1) % 2 ^ P.tagW else s.dlTag := by
  unfold deadlineEnter; cases arming P S <;> rfl
@[simp] theorem deadlineEnter_dlFired (P : Params) (S : EngineState) (s : State) : (deadlineEnter P S s).dlFired = false := by
  unfold deadlineEnter; cases arming P S <;> rfl
@[simp] theorem deadlineEnter_lenCount (P : Params) (S : EngineState) (s : State) : (deadlineEnter P S s).lenCount = s.lenCount := by
  unfold deadlineEnter; cases arming P S <;> rfl
@[simp] theorem deadlineEnter_lenbuf (P : Params) (S : EngineState) (s : State) : (deadlineEnter P S s).lenbuf = s.lenbuf := by
  unfold deadlineEnter; cases arming P S <;> rfl
@[simp] theorem deadlineEnter_rxLen (P : Params) (S : EngineState) (s : State) : (deadlineEnter P S s).rxLen = s.rxLen := by
  unfold deadlineEnter; cases arming P S <;> rfl
@[simp] theorem deadlineEnter_dataCount (P : Params) (S : EngineState) (s : State) : (deadlineEnter P S s).dataCount = s.dataCount := by
  unfold deadlineEnter; cases arming P S <;> rfl
@[simp] theorem deadlineEnter_databuf (P : Params) (S : EngineState) (s : State) : (deadlineEnter P S s).databuf = s.databuf := by
  unfold deadlineEnter; cases arming P S <;> rfl
@[simp] theorem deadlineEnter_crcCount (P : Params) (S : EngineState) (s : State) : (deadlineEnter P S s).crcCount = s.crcCount := by
  unfold deadlineEnter; cases arming P S <;> rfl
@[simp] theorem deadlineEnter_crcbuf (P : Params) (S : EngineState) (s : State) : (deadlineEnter P S s).crcbuf = s.crcbuf := by
  unfold deadlineEnter; cases arming P S <;> rfl
@[simp] theorem deadlineEnter_pfValid (P : Params) (S : EngineState) (s : State) : (deadlineEnter P S s).pfValid = s.pfValid := by
  unfold deadlineEnter; cases arming P S <;> rfl
@[simp] theorem deadlineEnter_pfLen (P : Params) (S : EngineState) (s : State) : (deadlineEnter P S s).pfLen = s.pfLen := by
  unfold deadlineEnter; cases arming P S <;> rfl
@[simp] theorem deadlineEnter_pfBytes (P : Params) (S : EngineState) (s : State) : (deadlineEnter P S s).pfBytes = s.pfBytes := by
  unfold deadlineEnter; cases arming P S <;> rfl
@[simp] theorem deadlineEnter_fault (P : Params) (S : EngineState) (s : State) : (deadlineEnter P S s).fault = s.fault := by
  unfold deadlineEnter; cases arming P S <;> rfl
@[simp] theorem deadlineEnter_fifo (P : Params) (S : EngineState) (s : State) : (deadlineEnter P S s).fifo = s.fifo := by
  unfold deadlineEnter; cases arming P S <;> rfl
@[simp] theorem deadlineEnter_effects (P : Params) (S : EngineState) (s : State) : (deadlineEnter P S s).effects = s.effects := by
  unfold deadlineEnter; cases arming P S <;> rfl
@[simp] theorem deadlineEnter_sched (P : Params) (S : EngineState) (s : State) : (deadlineEnter P S s).sched = s.sched := by
  unfold deadlineEnter; cases arming P S <;> rfl

/-! ### enterResting -/
@[simp] theorem enterResting_state (P : Params) (S : EngineState) (s : State) : (enterResting P S s).state = S := by
  by_cases h : S = .frameStart <;> simp [enterResting, h]
@[simp] theorem enterResting_c0 (P : Params) (S : EngineState) (s : State) : (enterResting P S s).c0 = s.c0 := by
  by_cases h : S = .frameStart <;> simp [enterResting, h]
@[simp] theorem enterResting_c1 (P : Params) (S : EngineState) (s : State) : (enterResting P S s).c1 = s.c1 := by
  by_cases h : S = .frameStart <;> simp [enterResting, h]
@[simp] theorem enterResting_dlArmed (P : Params) (S : EngineState) (s : State) : (enterResting P S s).dlArmed = arming P S := by
  by_cases h : S = .frameStart <;> simp [enterResting, h]
@[simp] theorem enterResting_dlTag (P : Params) (S : EngineState) (s : State) : (enterResting P S s).dlTag = if arming P S then (s.dlTag + 1) % 2 ^ P.tagW else s.dlTag := by
  by_cases h : S = .frameStart <;> simp [enterResting, h]
@[simp] theorem enterResting_dlFired (P : Params) (S : EngineState) (s : State) : (enterResting P S s).dlFired = false := by
  by_cases h : S = .frameStart <;> simp [enterResting, h]
@[simp] theorem enterResting_lenCount (P : Params) (S : EngineState) (s : State) : (enterResting P S s).lenCount = if S = .frameStart then 0 else s.lenCount := by
  by_cases h : S = .frameStart <;> simp [enterResting, h]
@[simp] theorem enterResting_lenbuf (P : Params) (S : EngineState) (s : State) : (enterResting P S s).lenbuf = s.lenbuf := by
  by_cases h : S = .frameStart <;> simp [enterResting, h]
@[simp] theorem enterResting_rxLen (P : Params) (S : EngineState) (s : State) : (enterResting P S s).rxLen = s.rxLen := by
  by_cases h : S = .frameStart <;> simp [enterResting, h]
@[simp] theorem enterResting_dataCount (P : Params) (S : EngineState) (s : State) : (enterResting P S s).dataCount = if S = .frameStart then 0 else s.dataCount := by
  by_cases h : S = .frameStart <;> simp [enterResting, h]
@[simp] theorem enterResting_databuf (P : Params) (S : EngineState) (s : State) : (enterResting P S s).databuf = s.databuf := by
  by_cases h : S = .frameStart <;> simp [enterResting, h]
@[simp] theorem enterResting_crcCount (P : Params) (S : EngineState) (s : State) : (enterResting P S s).crcCount = if S = .frameStart then 0 else s.crcCount := by
  by_cases h : S = .frameStart <;> simp [enterResting, h]
@[simp] theorem enterResting_crcbuf (P : Params) (S : EngineState) (s : State) : (enterResting P S s).crcbuf = s.crcbuf := by
  by_cases h : S = .frameStart <;> simp [enterResting, h]
@[simp] theorem enterResting_pfValid (P : Params) (S : EngineState) (s : State) : (enterResting P S s).pfValid = s.pfValid := by
  by_cases h : S = .frameStart <;> simp [enterResting, h]
@[simp] theorem enterResting_pfLen (P : Params) (S : EngineState) (s : State) : (enterResting P S s).pfLen = s.pfLen := by
  by_cases h : S = .frameStart <;> simp [enterResting, h]
@[simp] theorem enterResting_pfBytes (P : Params) (S : EngineState) (s : State) : (enterResting P S s).pfBytes = s.pfBytes := by
  by_cases h : S = .frameStart <;> simp [enterResting, h]
@[simp] theorem enterResting_fault (P : Params) (S : EngineState) (s : State) : (enterResting P S s).fault = s.fault := by
  by_cases h : S = .frameStart <;> simp [enterResting, h]
@[simp] theorem enterResting_fifo (P : Params) (S : EngineState) (s : State) : (enterResting P S s).fifo = s.fifo := by
  by_cases h : S = .frameStart <;> simp [enterResting, h]
@[simp] theorem enterResting_effects (P : Params) (S : EngineState) (s : State) : (enterResting P S s).effects = s.effects := by
  by_cases h : S = .frameStart <;> simp [enterResting, h]
@[simp] theorem enterResting_sched (P : Params) (S : EngineState) (s : State) : (enterResting P S s).sched = s.sched := by
  by_cases h : S = .frameStart <;> simp [enterResting, h]

/-! ### nak-and-resync -/
@[simp] theorem nakAndResync_state (P : Params) (s : State) : (nakAndResync P s).state = .frameSync := by
  simp [nakAndResync]
@[simp] theorem nakAndResync_c0 (P : Params) (s : State) : (nakAndResync P s).c0 = s.c0 := by
  simp [nakAndResync]
@[simp] theorem nakAndResync_c1 (P : Params) (s : State) : (nakAndResync P s).c1 = s.c1 := by
  simp [nakAndResync]
@[simp] theorem nakAndResync_dlArmed (P : Params) (s : State) : (nakAndResync P s).dlArmed = true := by
  simp [nakAndResync, arming]
@[simp] theorem nakAndResync_dlTag (P : Params) (s : State) : (nakAndResync P s).dlTag = (s.dlTag + 1) % 2 ^ P.tagW := by
  simp [nakAndResync, arming]
@[simp] theorem nakAndResync_dlFired (P : Params) (s : State) : (nakAndResync P s).dlFired = false := by
  simp [nakAndResync]
@[simp] theorem nakAndResync_lenCount (P : Params) (s : State) : (nakAndResync P s).lenCount = s.lenCount := by
  simp [nakAndResync]
@[simp] theorem nakAndResync_lenbuf (P : Params) (s : State) : (nakAndResync P s).lenbuf = s.lenbuf := by
  simp [nakAndResync]
@[simp] theorem nakAndResync_rxLen (P : Params) (s : State) : (nakAndResync P s).rxLen = s.rxLen := by
  simp [nakAndResync]
@[simp] theorem nakAndResync_dataCount (P : Params) (s : State) : (nakAndResync P s).dataCount = s.dataCount := by
  simp [nakAndResync]
@[simp] theorem nakAndResync_databuf (P : Params) (s : State) : (nakAndResync P s).databuf = s.databuf := by
  simp [nakAndResync]
@[simp] theorem nakAndResync_crcCount (P : Params) (s : State) : (nakAndResync P s).crcCount = s.crcCount := by
  simp [nakAndResync]
@[simp] theorem nakAndResync_crcbuf (P : Params) (s : State) : (nakAndResync P s).crcbuf = s.crcbuf := by
  simp [nakAndResync]
@[simp] theorem nakAndResync_pfValid (P : Params) (s : State) : (nakAndResync P s).pfValid = s.pfValid := by
  simp [nakAndResync]
@[simp] theorem nakAndResync_pfLen (P : Params) (s : State) : (nakAndResync P s).pfLen = s.pfLen := by
  simp [nakAndResync]
@[simp] theorem nakAndResync_pfBytes (P : Params) (s : State) : (nakAndResync P s).pfBytes = s.pfBytes := by
  simp [nakAndResync]
@[simp] theorem nakAndResync_fault (P : Params) (s : State) : (nakAndResync P s).fault = s.fault := by
  simp [nakAndResync]
@[simp] theorem nakAndResync_fifo (P : Params) (s : State) : (nakAndResync P s).fifo = s.fifo := by
  simp [nakAndResync]
@[simp] theorem nakAndResync_effects (P : Params) (s : State) : (nakAndResync P s).effects = s.effects ++ [.sendBytes (nakSeq P)] := by
  simp [nakAndResync]
@[simp] theorem nakAndResync_sched (P : Params) (s : State) : (nakAndResync P s).sched = s.sched := by
  simp [nakAndResync]

/-! ### abort-with-nak -/
@[simp] theorem abortWithNak_state (P : Params) (s : State) : (abortWithNak P s).state = .idle := by
  unfold abortWithNak; cases P.abortSendsNak <;> rfl
@[simp] theorem abortWithNak_c0 (P : Params) (s : State) : (abortWithNak P s).c0 = 0 := by
  unfold abortWithNak; cases P.abortSendsNak <;> rfl
@[simp] theorem abortWithNak_c1 (P : Params) (s : State) : (abortWithNak P s).c1 = 0 := by
  unfold abortWithNak; cases P.abortSendsNak <;> rfl
@[simp] theorem abortWithNak_dlArmed (P : Params) (s : State) : (abortWithNak P s).dlArmed = false := by
  unfold abortWithNak; cases P.abortSendsNak <;> rfl
@[simp] theorem abortWithNak_dlTag (P : Params) (s : State) : (abortWithNak P s).dlTag = s.dlTag := by
  unfold abortWithNak; cases P.abortSendsNak <;> rfl
@[simp] theorem abortWithNak_dlFired (P : Params) (s : State) : (abortWithNak P s).dlFired = false := by
  unfold abortWithNak; cases P.abortSendsNak <;> rfl
@[simp] theorem abortWithNak_lenCount (P : Params) (s : State) : (abortWithNak P s).lenCount = 0 := by
  unfold abortWithNak; cases P.abortSendsNak <;> rfl
@[simp] theorem abortWithNak_lenbuf (P : Params) (s : State) : (abortWithNak P s).lenbuf = s.lenbuf := by
  unfold abortWithNak; cases P.abortSendsNak <;> rfl
@[simp] theorem abortWithNak_rxLen (P : Params) (s : State) : (abortWithNak P s).rxLen = s.rxLen := by
  unfold abortWithNak; cases P.abortSendsNak <;> rfl
@[simp] theorem abortWithNak_dataCount (P : Params) (s : State) : (abortWithNak P s).dataCount = 0 := by
  unfold abortWithNak; cases P.abortSendsNak <;> rfl
@[simp] theorem abortWithNak_databuf (P : Params) (s : State) : (abortWithNak P s).databuf = s.databuf := by
  unfold abortWithNak; cases P.abortSendsNak <;> rfl
@[simp] theorem abortWithNak_crcCount (P : Params) (s : State) : (abortWithNak P s).crcCount = 0 := by
  unfold abortWithNak; cases P.abortSendsNak <;> rfl
@[simp] theorem abortWithNak_crcbuf (P : Params) (s : State) : (abortWithNak P s).crcbuf = s.crcbuf := by
  unfold abortWithNak; cases P.abortSendsNak <;> rfl
@[simp] theorem abortWithNak_pfValid (P : Params) (s : State) : (abortWithNak P s).pfValid = false := by
  unfold abortWithNak; cases P.abortSendsNak <;> rfl
@[simp] theorem abortWithNak_pfLen (P : Params) (s : State) : (abortWithNak P s).pfLen = s.pfLen := by
  unfold abortWithNak; cases P.abortSendsNak <;> rfl
@[simp] theorem abortWithNak_pfBytes (P : Params) (s : State) : (abortWithNak P s).pfBytes = s.pfBytes := by
  unfold abortWithNak; cases P.abortSendsNak <;> rfl
@[simp] theorem abortWithNak_fault (P : Params) (s : State) : (abortWithNak P s).fault = s.fault := by
  unfold abortWithNak; cases P.abortSendsNak <;> rfl
@[simp] theorem abortWithNak_fifo (P : Params) (s : State) : (abortWithNak P s).fifo = s.fifo := by
  unfold abortWithNak; cases P.abortSendsNak <;> rfl
@[simp] theorem abortWithNak_effects (P : Params) (s : State) : (abortWithNak P s).effects = if P.abortSendsNak then s.effects ++ [.sendBytes (nakSeq P)] else s.effects := by
  unfold abortWithNak; cases P.abortSendsNak <;> rfl
@[simp] theorem abortWithNak_sched (P : Params) (s : State) : (abortWithNak P s).sched = s.sched := by
  unfold abortWithNak; cases P.abortSendsNak <;> rfl

/-! ### Entry to BidSend -/
@[simp] theorem enterBidSend_state (P : Params) (s : State) : (enterBidSend P s).state = .bidAckWait := by
  simp [enterBidSend]
@[simp] theorem enterBidSend_c0 (P : Params) (s : State) : (enterBidSend P s).c0 = s.c0 := by
  simp [enterBidSend]
@[simp] theorem enterBidSend_c1 (P : Params) (s : State) : (enterBidSend P s).c1 = s.c1 := by
  simp [enterBidSend]
@[simp] theorem enterBidSend_dlArmed (P : Params) (s : State) : (enterBidSend P s).dlArmed = true := by
  simp [enterBidSend, arming]
@[simp] theorem enterBidSend_dlTag (P : Params) (s : State) : (enterBidSend P s).dlTag = (s.dlTag + 1) % 2 ^ P.tagW := by
  simp [enterBidSend, arming]
@[simp] theorem enterBidSend_dlFired (P : Params) (s : State) : (enterBidSend P s).dlFired = false := by
  simp [enterBidSend]
@[simp] theorem enterBidSend_lenCount (P : Params) (s : State) : (enterBidSend P s).lenCount = s.lenCount := by
  simp [enterBidSend]
@[simp] theorem enterBidSend_lenbuf (P : Params) (s : State) : (enterBidSend P s).lenbuf = s.lenbuf := by
  simp [enterBidSend]
@[simp] theorem enterBidSend_rxLen (P : Params) (s : State) : (enterBidSend P s).rxLen = s.rxLen := by
  simp [enterBidSend]
@[simp] theorem enterBidSend_dataCount (P : Params) (s : State) : (enterBidSend P s).dataCount = s.dataCount := by
  simp [enterBidSend]
@[simp] theorem enterBidSend_databuf (P : Params) (s : State) : (enterBidSend P s).databuf = s.databuf := by
  simp [enterBidSend]
@[simp] theorem enterBidSend_crcCount (P : Params) (s : State) : (enterBidSend P s).crcCount = s.crcCount := by
  simp [enterBidSend]
@[simp] theorem enterBidSend_crcbuf (P : Params) (s : State) : (enterBidSend P s).crcbuf = s.crcbuf := by
  simp [enterBidSend]
@[simp] theorem enterBidSend_pfValid (P : Params) (s : State) : (enterBidSend P s).pfValid = s.pfValid := by
  simp [enterBidSend]
@[simp] theorem enterBidSend_pfLen (P : Params) (s : State) : (enterBidSend P s).pfLen = s.pfLen := by
  simp [enterBidSend]
@[simp] theorem enterBidSend_pfBytes (P : Params) (s : State) : (enterBidSend P s).pfBytes = s.pfBytes := by
  simp [enterBidSend]
@[simp] theorem enterBidSend_fault (P : Params) (s : State) : (enterBidSend P s).fault = s.fault := by
  simp [enterBidSend]
@[simp] theorem enterBidSend_fifo (P : Params) (s : State) : (enterBidSend P s).fifo = s.fifo := by
  simp [enterBidSend]
@[simp] theorem enterBidSend_effects (P : Params) (s : State) : (enterBidSend P s).effects = s.effects ++ [.sendBytes (bidSeq P)] := by
  simp [enterBidSend]
@[simp] theorem enterBidSend_sched (P : Params) (s : State) : (enterBidSend P s).sched = s.sched := by
  simp [enterBidSend]

/-! ### FIRE -/
@[simp] theorem fireDeadline_state (P : Params) (s : State) : (fireDeadline P s).state = s.state := by
  unfold fireDeadline; cases fireEnabled s <;> rfl
@[simp] theorem fireDeadline_c0 (P : Params) (s : State) : (fireDeadline P s).c0 = s.c0 := by
  unfold fireDeadline; cases fireEnabled s <;> rfl
@[simp] theorem fireDeadline_c1 (P : Params) (s : State) : (fireDeadline P s).c1 = s.c1 := by
  unfold fireDeadline; cases fireEnabled s <;> rfl
@[simp] theorem fireDeadline_dlArmed (P : Params) (s : State) : (fireDeadline P s).dlArmed = s.dlArmed := by
  unfold fireDeadline; cases fireEnabled s <;> rfl
@[simp] theorem fireDeadline_dlTag (P : Params) (s : State) : (fireDeadline P s).dlTag = s.dlTag := by
  unfold fireDeadline; cases fireEnabled s <;> rfl
@[simp] theorem fireDeadline_dlFired (P : Params) (s : State) : (fireDeadline P s).dlFired = (fireEnabled s || s.dlFired) := by
  unfold fireDeadline; cases fireEnabled s <;> rfl
@[simp] theorem fireDeadline_lenCount (P : Params) (s : State) : (fireDeadline P s).lenCount = s.lenCount := by
  unfold fireDeadline; cases fireEnabled s <;> rfl
@[simp] theorem fireDeadline_lenbuf (P : Params) (s : State) : (fireDeadline P s).lenbuf = s.lenbuf := by
  unfold fireDeadline; cases fireEnabled s <;> rfl
@[simp] theorem fireDeadline_rxLen (P : Params) (s : State) : (fireDeadline P s).rxLen = s.rxLen := by
  unfold fireDeadline; cases fireEnabled s <;> rfl
@[simp] theorem fireDeadline_dataCount (P : Params) (s : State) : (fireDeadline P s).dataCount = s.dataCount := by
  unfold fireDeadline; cases fireEnabled s <;> rfl
@[simp] theorem fireDeadline_databuf (P : Params) (s : State) : (fireDeadline P s).databuf = s.databuf := by
  unfold fireDeadline; cases fireEnabled s <;> rfl
@[simp] theorem fireDeadline_crcCount (P : Params) (s : State) : (fireDeadline P s).crcCount = s.crcCount := by
  unfold fireDeadline; cases fireEnabled s <;> rfl
@[simp] theorem fireDeadline_crcbuf (P : Params) (s : State) : (fireDeadline P s).crcbuf = s.crcbuf := by
  unfold fireDeadline; cases fireEnabled s <;> rfl
@[simp] theorem fireDeadline_pfValid (P : Params) (s : State) : (fireDeadline P s).pfValid = s.pfValid := by
  unfold fireDeadline; cases fireEnabled s <;> rfl
@[simp] theorem fireDeadline_pfLen (P : Params) (s : State) : (fireDeadline P s).pfLen = s.pfLen := by
  unfold fireDeadline; cases fireEnabled s <;> rfl
@[simp] theorem fireDeadline_pfBytes (P : Params) (s : State) : (fireDeadline P s).pfBytes = s.pfBytes := by
  unfold fireDeadline; cases fireEnabled s <;> rfl
@[simp] theorem fireDeadline_fault (P : Params) (s : State) : (fireDeadline P s).fault = s.fault := by
  unfold fireDeadline; cases fireEnabled s <;> rfl
@[simp] theorem fireDeadline_fifo (P : Params) (s : State) : (fireDeadline P s).fifo = if fireEnabled s then s.fifo ++ [timeoutWord P.tagW s.dlTag] else s.fifo := by
  unfold fireDeadline; cases fireEnabled s <;> rfl
@[simp] theorem fireDeadline_effects (P : Params) (s : State) : (fireDeadline P s).effects = s.effects := by
  unfold fireDeadline; cases fireEnabled s <;> rfl
@[simp] theorem fireDeadline_sched (P : Params) (s : State) : (fireDeadline P s).sched = s.sched := by
  unfold fireDeadline; cases fireEnabled s <;> rfl

end Sys2Proof.Machine
end

