-- ==== Sys2Proof/Laws/Ops.lean ====
section
/-! SUPPORT. One lemma per shared operation that says once what it answers; the provers cite these instead
of unfolding the operation. -/

namespace Sys2Proof.Machine

/-! ### The two forms of the machine -/

/-- The machine's dispatch is the parametric one at its own parameters. -/
theorem exec_eq_execWith (i : Instr) (s : State) : exec i s = execWith Config.params i s := by
  cases i <;> rfl

/-- The same of the two functions. -/
theorem exec_eq : exec = execWith Config.params :=
  funext fun i => funext fun s => exec_eq_execWith i s

/-- The machine's step is the parametric one at its own parameters. -/
theorem step_eq_stepWith (s : State) : step s = stepWith Config.params s := by
  unfold step stepWith
  rw [exec_eq]

/-- The same of the two functions. -/
theorem step_eq : step = stepWith Config.params := funext step_eq_stepWith

/-- The machine's control codes are pairwise distinct (60_exceptions.md R247). -/
theorem codesDistinct_params : CodesDistinct Config.params := by
  have h : ∀ a b : Byte, a ≠ b → Config.controlCode a ≠ Config.controlCode b :=
    fun a b hab he => hab (Config.controlCode.injective he)
  simp only [CodesDistinct, controlCodes, Config.params, List.nodup_cons, List.mem_cons,
    List.not_mem_nil, or_false, not_or, not_false_eq_true, List.nodup_nil, and_true]
  refine ⟨⟨?_, ?_, ?_, ?_, ?_⟩, ⟨?_, ?_, ?_, ?_⟩, ⟨?_, ?_, ?_⟩, ⟨?_, ?_⟩, ?_⟩ <;>
    exact h _ _ (by decide)

/-! ### State entry -/

/-- `enter` of a resting state other than Idle answers the entry (40_engine_core.md R113). -/
theorem enter_of_resting (P : Params) (S : EngineState) (s : State) (hr : S.resting = true)
    (hi : S ≠ .idle) : enter P S s = .next (enterResting P S s) := by
  cases S <;> first | rfl | exact absurd rfl hi | exact absurd hr (by decide)

@[simp] theorem enter_idle (P : Params) (s : State) : enter P .idle s = .next (idleEntry s) := rfl

@[simp] theorem enter_bidSend (P : Params) (s : State) :
    enter P .bidSend s = .next (enterBidSend P s) := rfl

@[simp] theorem enter_transmit (P : Params) (s : State) :
    enter P .transmit s = enterTransmit P s := rfl

@[simp] theorem enter_checksumCheck (P : Params) (s : State) :
    enter P .checksumCheck s = enterChecksumCheck P s := rfl

/-- Transmit answers a next state exactly when a payload is pending and within its space (42_initiator.md R190). -/
theorem enterTransmit_next {P : Params} {s t : State} :
    enterTransmit P s = .next t ↔
      s.pfValid = true ∧ ∃ bs, memRead P .txp s.pfBytes s.pfLen.toNat = .ok bs ∧
        t = enterResting P .frameAckWait (emit (.sendBytes bs) s) := by
  unfold enterTransmit
  cases s.pfValid with
  | false => simp
  | true =>
    cases memRead P .txp s.pfBytes s.pfLen.toNat with
    | error f => simp
    | ok bs => simp [eq_comm]

/-- ChecksumCheck answers a next state exactly when the payload lies within its space: the frame on a match,
nak-and-resync otherwise (41_responder.md R166). -/
theorem enterChecksumCheck_next {P : Params} {s t : State} :
    enterChecksumCheck P s = .next t ↔
      ∃ bs, memRead P .rxData s.databuf s.rxLen.toNat = .ok bs ∧
        t = if P.checksum (checksumInput P s.lenbuf bs) = s.crcbuf.littleEndian then
            idleEntry (emit (.frame bs) (emit (.sendBytes (ackSeq P)) s))
          else nakAndResync P s := by
  unfold enterChecksumCheck
  cases memRead P .rxData s.databuf s.rxLen.toNat with
  | error f => simp
  | ok bs =>
    simp only [Except.ok.injEq, exists_eq_left']
    split
    · rw [Host.Outcome.next.injEq]; exact eq_comm
    · rw [Host.Outcome.next.injEq]; exact eq_comm

/-- A bounded retry: restart below the cap, the failure status and Idle at it (40_engine_core.md R117). -/
theorem retry_eq (P : Params) (a : RetryAction) (s : State) :
    retry P a s =
      if (a.counter P.counterMap).read s + 1 < Config.retryCap then
        enter P a.target
          ((a.counter P.counterMap).write ((a.counter P.counterMap).read s + 1) s)
      else .next (idleEntry (emit (.status .transmissionFailure)
        ((a.counter P.counterMap).write ((a.counter P.counterMap).read s + 1) s))) := rfl

/-! ### The rows of the matrix -/

theorem transition_idle (P : Params) (c : EventClass) (s : State) (h : s.state = .idle) :
    transition P c s = idleOn P c s := by
  simp only [transition, h]

theorem transition_bidWait (P : Params) (c : EventClass) (s : State) (h : s.state = .bidWait) :
    transition P c s = bidWaitOn P c s := by
  simp only [transition, h]

theorem transition_frameSync (P : Params) (c : EventClass) (s : State) (h : s.state = .frameSync) :
    transition P c s = frameSyncOn P c s := by
  simp only [transition, h]

theorem transition_frameStart (P : Params) (c : EventClass) (s : State) (h : s.state = .frameStart) :
    transition P c s = frameStartOn P c s := by
  simp only [transition, h]

theorem transition_lengthField (P : Params) (c : EventClass) (s : State) (h : s.state = .lengthField) :
    transition P c s = lengthFieldOn P c s := by
  simp only [transition, h]

theorem transition_payload (P : Params) (c : EventClass) (s : State) (h : s.state = .payload) :
    transition P c s = payloadOn P c s := by
  simp only [transition, h]

theorem transition_frameEndEscape (P : Params) (c : EventClass) (s : State) (h : s.state = .frameEndEscape) :
    transition P c s = frameEndEscapeOn P c s := by
  simp only [transition, h]

theorem transition_frameEnd (P : Params) (c : EventClass) (s : State) (h : s.state = .frameEnd) :
    transition P c s = frameEndOn P c s := by
  simp only [transition, h]

theorem transition_checksum (P : Params) (c : EventClass) (s : State) (h : s.state = .checksum) :
    transition P c s = checksumOn P c s := by
  simp only [transition, h]

theorem transition_bidAckWait (P : Params) (c : EventClass) (s : State) (h : s.state = .bidAckWait) :
    transition P c s = bidAckWaitOn P c s := by
  simp only [transition, h]

theorem transition_bidAck (P : Params) (c : EventClass) (s : State) (h : s.state = .bidAck) :
    transition P c s = bidAckOn P c s := by
  simp only [transition, h]

theorem transition_frameAckWait (P : Params) (c : EventClass) (s : State) (h : s.state = .frameAckWait) :
    transition P c s = frameAckWaitOn P c s := by
  simp only [transition, h]

theorem transition_frameAck (P : Params) (c : EventClass) (s : State) (h : s.state = .frameAck) :
    transition P c s = frameAckOn P c s := by
  simp only [transition, h]

/-- A transient state has no row (10_state.md R23). -/
theorem transition_transient (P : Params) (c : EventClass) (s : State) (h : s.state.resting = false) :
    transition P c s = .fault .notResting := by
  unfold transition
  cases hs : s.state <;> simp [hs, EngineState.resting, EngineState.transient] at h ⊢

/-! ### Collected bytes -/

@[simp] theorem TwoBytes.write_zero (b : TwoBytes) (v : Byte) :
    b.write 0 v = some { b with at0 := v } := rfl

@[simp] theorem TwoBytes.write_one (b : TwoBytes) (v : Byte) :
    b.write 1 v = some { b with at1 := v } := rfl

/-- The value of a length prefix (20_memory.md R63). -/
theorem TwoBytes.bigEndian_toNat (b : TwoBytes) :
    b.bigEndian.toNat = b.at0.toNat * 256 + b.at1.toNat := by
  simp only [TwoBytes.bigEndian, BitVec.toNat_cast, BitVec.toNat_append]
  rw [← Nat.shiftLeft_add_eq_or_of_lt b.at1.isLt, Nat.shiftLeft_eq]

/-- The value of a received checksum (20_memory.md R64). -/
theorem TwoBytes.littleEndian_toNat (b : TwoBytes) :
    b.littleEndian.toNat = b.at0.toNat + 256 * b.at1.toNat := by
  simp only [TwoBytes.littleEndian, BitVec.toNat_cast, BitVec.toNat_append]
  rw [← Nat.shiftLeft_add_eq_or_of_lt b.at0.isLt, Nat.shiftLeft_eq]
  omega

/-- A payload byte answers a next state exactly when `data_count` is an address of RXDATA
(41_responder.md R156). -/
theorem payloadByte_next {P : Params} {v : Byte} {s t : State} :
    payloadByte P v s = .next t ↔
      s.dataCount.toNat < Space.size P .rxData ∧
        t = if s.dataCount + 1 = s.rxLen then
            enterResting P .frameEndEscape
              { s with databuf := Memory.write s.databuf s.dataCount.toNat v
                       dataCount := s.dataCount + 1 }
          else { s with databuf := Memory.write s.databuf s.dataCount.toNat v
                        dataCount := s.dataCount + 1 } := by
  unfold payloadByte memWrite
  by_cases h : s.dataCount.toNat < Space.size P .rxData
  · rw [if_pos h]
    simp only [h, true_and]
    split
    · exact (Host.Outcome.next.injEq _ _).to_iff.trans eq_comm
    · exact (Host.Outcome.next.injEq _ _).to_iff.trans eq_comm
  · simp [h]

/-- The first length byte is held (41_responder.md R153). -/
theorem lengthByte_first (P : Params) (v : Byte) (s : State) (h : s.lenCount = 0) :
    lengthByte P v s = .next { s with lenbuf := { s.lenbuf with at0 := v }, lenCount := 1 } := by
  unfold lengthByte
  rw [h]
  rfl

/-- The second one parses the length and enters FrameEndEscape or Payload (R153). -/
theorem lengthByte_second (P : Params) (v : Byte) (s : State) (h : s.lenCount = 1) :
    lengthByte P v s = .next (enterResting P
      (if ({ s.lenbuf with at1 := v } : TwoBytes).bigEndian = 0 then .frameEndEscape else .payload)
      { s with lenbuf := { s.lenbuf with at1 := v }, lenCount := 2
               rxLen := ({ s.lenbuf with at1 := v } : TwoBytes).bigEndian }) := by
  unfold lengthByte
  rw [h]
  show (if (1 : BitVec 2) + 1 = 2 then _ else _) = _
  rw [if_pos (by decide)]
  split <;> rfl

/-- The first checksum byte is held (R163). -/
theorem checksumByte_first (P : Params) (v : Byte) (s : State) (h : s.crcCount = 0) :
    checksumByte P v s = .next { s with crcbuf := { s.crcbuf with at0 := v }, crcCount := 1 } := by
  unfold checksumByte
  rw [h]
  rfl

/-- The second one enters ChecksumCheck (R163, R166). -/
theorem checksumByte_second (P : Params) (v : Byte) (s : State) (h : s.crcCount = 1) :
    checksumByte P v s = enterChecksumCheck P
      { s with crcbuf := { s.crcbuf with at1 := v }, crcCount := 2 } := by
  unfold checksumByte
  rw [h]
  rfl

/-! ### The agents -/

/-- A valid `Timeout` (40_engine_core.md R119). -/
theorem timeoutValid_iff (t : Nat) (s : State) :
    timeoutValid t s = true ↔ s.dlArmed = true ∧ s.dlFired = true ∧ t = s.dlTag := by
  simp [timeoutValid, and_assoc]

/-- When `FIRE` is enabled (60_exceptions.md R238). -/
theorem fireEnabled_iff (s : State) :
    fireEnabled s = true ↔ s.dlArmed = true ∧ s.dlFired = false ∧ s.fault = 0 := by
  simp [fireEnabled, and_assoc]

/-- What the engine's move can answer: nothing taken (faulted, or no word), a reserved-bits word
raised, or the decoded instruction run (40_engine_core.md R110). -/
theorem takeWord_cases (P : Params) (run : Instr → State → Result) (s : State) :
    (takeWord P run s = .next s ∧ (s.fault ≠ 0 ∨ s.fifo = [])) ∨
    ∃ q rest, s.fault = 0 ∧ s.fifo = q :: rest ∧
      ((decodeQueued P.tagW q = .error .reservedBits ∧
          takeWord P run s = .next (raiseFault .rsvBits { s with fifo := rest })) ∨
        ∃ i, decodeQueued P.tagW q = .ok i ∧
          takeWord P run s = run i { s with fifo := rest }) := by
  unfold takeWord
  by_cases hf : s.fault = 0
  · cases hq : s.fifo with
    | nil => left; simp [hf]
    | cons q rest =>
      right
      refine ⟨q, rest, hf, rfl, ?_⟩
      cases hd : decodeQueued P.tagW q with
      | error e => cases e; left; exact ⟨rfl, by simp [hf, hd]⟩
      | ok i => right; exact ⟨i, rfl, by simp [hf, hd]⟩
  · exact .inl ⟨if_pos hf, .inl hf⟩

end Sys2Proof.Machine
end

