-- ==== Sys2Proof/Laws/Word.lean ====
section
/-! SUPPORT. The fields of an assembled word, the bits of a queued one, and what the decoder answers, at any
width of the tag (30_encoding.md R81, R92, R98). -/

namespace Sys2Proof

/-! ### The fields of an assembled word -/

@[simp] theorem EventWord.code_assemble {tagW : Nat} (t : BitVec tagW) (v : Byte) (r c : BitVec 4) :
    (EventWord.assemble t v r c).code = c := by
  apply BitVec.eq_of_getLsbD_eq
  intro i hi
  simp [EventWord.code, EventWord.assemble, BitVec.getLsbD_append, hi]

@[simp] theorem EventWord.rsv_assemble {tagW : Nat} (t : BitVec tagW) (v : Byte) (r c : BitVec 4) :
    (EventWord.assemble t v r c).rsv = r := by
  apply BitVec.eq_of_getLsbD_eq
  intro i hi
  simp [EventWord.rsv, EventWord.assemble, BitVec.getLsbD_append, hi]

@[simp] theorem EventWord.data_assemble {tagW : Nat} (t : BitVec tagW) (v : Byte) (r c : BitVec 4) :
    (EventWord.assemble t v r c).data = v := by
  apply BitVec.eq_of_getLsbD_eq
  intro i hi
  have h1 : ¬ 8 + i < 4 := by omega
  have h2 : ¬ 8 + i - 4 < 4 := by omega
  have h3 : 8 + i - 4 - 4 = i := by omega
  simp [EventWord.data, EventWord.assemble, BitVec.getLsbD_append, hi, h1, h2, h3]

@[simp] theorem EventWord.tag_assemble {tagW : Nat} (t : BitVec tagW) (v : Byte) (r c : BitVec 4) :
    (EventWord.assemble t v r c).tag = t := by
  apply BitVec.eq_of_getLsbD_eq
  intro i hi
  have h1 : ¬ 16 + i < 4 := by omega
  have h2 : ¬ 16 + i - 4 < 4 := by omega
  have h3 : ¬ 16 + i - 4 - 4 < 8 := by omega
  have h4 : 16 + i - 4 - 4 - 8 = i := by omega
  rw [EventWord.tag, EventWord.assemble, BitVec.getLsbD_extractLsb', BitVec.getLsbD_cast]
  simp only [BitVec.getLsbD_append, hi, h1, h2, h3, h4, decide_true, Bool.true_and, if_false]

/-! ### Queued words -/

/-- A word put on the path as its number reads as that word. -/
@[simp] theorem QueuedWord.bits_toNat {tagW : Nat} (w : EventWord tagW) (p : Bytes) :
    (QueuedWord.mk w.toNat p).bits tagW = w := by
  simp [QueuedWord.bits]

@[simp] theorem QueuedWord.bits_encode (tagW : Nat) (i : Instr) :
    (encode tagW i).bits tagW = encodeWord tagW i := QueuedWord.bits_toNat _ _

@[simp] theorem encode_payload (tagW : Nat) (i : Instr) : (encode tagW i).payload = i.payload := rfl

/-! ### The decoder -/

/-- The event of a code has that code. -/
theorem eventOf_code (c : BitVec 4) (v : Byte) (t : Nat) (p : Bytes) : (eventOf c v t p).code = c := by
  have h : ∀ n : Fin 16, (eventOf (BitVec.ofFin n) v t p).code = BitVec.ofFin n := by
    intro n; fin_cases n <;> rfl
  exact h c.toFin

/-- What the decoder answers: the event of the word's fields unless the code is one of R83 and the
reserved nibble is not zero. -/
theorem decode_ok {tagW : Nat} {w : EventWord tagW} {p : Bytes} {i : Instr} :
    decode tagW w p = .ok i ↔
      (0xC#4 ≤ w.code ∨ w.rsv = 0) ∧ i = eventOf w.code w.data w.tag.toNat p := by
  unfold decode
  by_cases h : 0xC#4 ≤ w.code
  · simp [h, eq_comm]
  · rw [if_neg h]
    by_cases h' : w.rsv = 0
    · simp [h', eq_comm]
    · rw [if_pos h']
      exact ⟨(fun e => by cases e), fun e => absurd e.1 (not_or.mpr ⟨h, h'⟩)⟩

end Sys2Proof
end

