-- ==== Sys2Proof/Laws/PerInstr.lean ====
section
/-! SUPPORT. The per-instruction family `MatchesRow`: the encoding of an instruction has the fixed bits of its
row of spec/opcode_table.json, and every word with these bits decodes to an instruction of that row; at any
width of the tag. -/

namespace Sys2Proof.Laws.MatchesRow

/-- The word has the fixed bits of a row (R83, R92): its code, and for an event a zero reserved nibble. -/
def Fixed {tagW : Nat} (i : Instr) (w : EventWord tagW) : Prop :=
  w.extractLsb' 0 4 = i.code ∧ (i.reservedRow = false → w.extractLsb' 4 4 = 0)

/-- The instruction's word has the row's fixed bits, and every word with them is decoded to the row. -/
def Statement (i : Instr) : Prop :=
  ∀ tagW : Nat, Fixed i (encodeWord tagW i) ∧
    ∀ (w : EventWord tagW) (p : Bytes), Fixed i w → ∃ j, decode tagW w p = .ok j ∧ j.code = i.code

/-- A family's lemma from the fields of its word and the kind of its row. -/
theorem of_fields {i : Instr} (hk : i.reservedRow = true → 0xC#4 ≤ i.code)
    (hw : ∀ tagW, ∃ (t : BitVec tagW) (v : Byte), encodeWord tagW i = EventWord.assemble t v 0 i.code) :
    Statement i := by
  intro tagW
  obtain ⟨t, v, e⟩ := hw tagW
  refine ⟨⟨?_, fun _ => ?_⟩, fun w p hf => ?_⟩
  · rw [e]; exact EventWord.code_assemble t v 0 i.code
  · rw [e]; exact EventWord.rsv_assemble t v 0 i.code
  · have hc : w.code = i.code := hf.1
    refine ⟨_, decode_ok.mpr ⟨?_, rfl⟩, by rw [eventOf_code, hc]⟩
    cases hr : i.reservedRow with
    | true => exact .inl (hc ▸ hk hr)
    | false => exact .inr (hf.2 hr)

theorem lineBidByte1 : Statement .lineBidByte1 :=
  of_fields (fun h => by cases h) fun _ => ⟨_, _, rfl⟩

theorem lineBidByte2 : Statement .lineBidByte2 :=
  of_fields (fun h => by cases h) fun _ => ⟨_, _, rfl⟩

theorem frameStartEscape : Statement .frameStartEscape :=
  of_fields (fun h => by cases h) fun _ => ⟨_, _, rfl⟩

theorem frameStartMarker : Statement .frameStartMarker :=
  of_fields (fun h => by cases h) fun _ => ⟨_, _, rfl⟩

theorem dataByte (v : Byte) : Statement (.dataByte v) :=
  of_fields (fun h => by cases h) fun _ => ⟨_, _, rfl⟩

theorem frameEndEscape : Statement .frameEndEscape :=
  of_fields (fun h => by cases h) fun _ => ⟨_, _, rfl⟩

theorem frameEndMarker : Statement .frameEndMarker :=
  of_fields (fun h => by cases h) fun _ => ⟨_, _, rfl⟩

theorem ackByte : Statement .ackByte :=
  of_fields (fun h => by cases h) fun _ => ⟨_, _, rfl⟩

theorem nakByte : Statement .nakByte :=
  of_fields (fun h => by cases h) fun _ => ⟨_, _, rfl⟩

theorem lineError : Statement .lineError :=
  of_fields (fun h => by cases h) fun _ => ⟨_, _, rfl⟩

theorem timeout (t : Nat) : Statement (.timeout t) :=
  of_fields (fun h => by cases h) fun _ => ⟨_, _, rfl⟩

theorem send (p : Bytes) : Statement (.send p) :=
  of_fields (fun h => by cases h) fun _ => ⟨_, _, rfl⟩

theorem reservedC : Statement .reservedC :=
  of_fields (fun _ => by decide) fun _ => ⟨_, _, rfl⟩

theorem reservedD : Statement .reservedD :=
  of_fields (fun _ => by decide) fun _ => ⟨_, _, rfl⟩

theorem reservedE : Statement .reservedE :=
  of_fields (fun _ => by decide) fun _ => ⟨_, _, rfl⟩

theorem reservedF : Statement .reservedF :=
  of_fields (fun _ => by decide) fun _ => ⟨_, _, rfl⟩

end Sys2Proof.Laws.MatchesRow
end

