-- ==== Sys2Proof/Laws/Runs.lean ====
section
/-! SUPPORT. What a move, a run's report and the reception of a line can answer, said once. -/

namespace Sys2Proof.Machine

/-! ### Moves and runs -/

/-- What a move can be: the engine's on the rest of the moves, or a next state in which a word has been
offered, the Deadline's step taken or RESET asserted (60_exceptions.md R236, R237, R238;
70_reset_and_hazards.md R260). -/
theorem stepBy_cases (P : Params) (run : Instr → State → Result) (s : State) :
    (s.sched = [] ∧ stepBy P run s = takeWord P run s) ∨
    ∃ m ms, s.sched = m :: ms ∧
      ((m = .deliver ∧ stepBy P run s = takeWord P run { s with sched := ms }) ∨
        (∃ q, m = .offer q ∧ stepBy P run s = .next (offerWord q { s with sched := ms })) ∨
        (m = .fire ∧ stepBy P run s = .next (fireDeadline P { s with sched := ms })) ∨
        (m = .reset ∧ stepBy P run s = .next (assertReset { s with sched := ms }))) := by
  unfold stepBy
  cases h : s.sched with
  | nil => exact .inl ⟨rfl, rfl⟩
  | cons m ms =>
    refine .inr ⟨m, ms, rfl, ?_⟩
    cases m with
    | deliver => exact .inl ⟨rfl, rfl⟩
    | offer q => exact .inr (.inl ⟨q, rfl, rfl⟩)
    | fire => exact .inr (.inr (.inl ⟨rfl, rfl⟩))
    | reset => exact .inr (.inr (.inr ⟨rfl, rfl⟩))

@[simp] theorem runWith_zero (P : Params) (s : State) : runWith P 0 s = .next s := rfl

/-- A run of `n + 1` moves answers a next state exactly when its first move does and the rest does. -/
theorem runWith_succ_next {P : Params} {n : Nat} {s t : State} :
    runWith P (n + 1) s = .next t ↔ ∃ u, stepWith P s = .next u ∧ runWith P n u = .next t := by
  simp only [runWith]
  cases stepWith P s <;> simp

/-- A run from a state the moves lead to is the rest of the run (70_reset_and_hazards.md R270). -/
theorem runWith_add {P : Params} {n k : Nat} {s u : State} (h : runWith P n s = .next u) :
    runWith P (n + k) s = runWith P k u := by
  induction n generalizing s with
  | zero => cases h; rw [Nat.zero_add]
  | succ n ih =>
    obtain ⟨v, hv, hr⟩ := runWith_succ_next.mp h
    rw [Nat.succ_add, runWith, hv]
    exact ih hr

/-! ### Reports (70_reset_and_hazards.md R270) -/

theorem atEnd_iff (s : State) : s.atEnd = true ↔ s.fifo = [] ∧ s.sched = [] := by
  simp [State.atEnd]

/-- A run whose last state is faulted is reported as faulted. -/
theorem outcomeOf_faulted {start t : State} (h : t.fault ≠ 0) :
    outcomeOf start (.next t) = .faulted (runResult start t) := if_pos h

/-- A run with nothing left and no fault is reported as a normal end. -/
theorem outcomeOf_ended {start t : State} (h : t.fault = 0) (he : t.atEnd = true) :
    outcomeOf start (.next t) = .ended (runResult start t) := by
  simp [outcomeOf, h, he]

/-- A normal end is reported of such a run only: a faulted run is no normal end. -/
theorem outcomeOf_eq_ended {start : State} {r : Result} {x : RunResult} :
    outcomeOf start r = .ended x ↔
      ∃ t, r = .next t ∧ t.fault = 0 ∧ t.atEnd = true ∧ x = runResult start t := by
  cases r with
  | next t =>
    by_cases h : t.fault = 0
    · cases he : t.atEnd with
      | true => rw [outcomeOf_ended h he]; simp [h, he, eq_comm (a := x)]
      | false => simp [outcomeOf, h, he]
    · rw [outcomeOf_faulted h]
      simp only [reduceCtorEq, Host.Outcome.next.injEq, false_iff]
      rintro ⟨_, rfl, h0, -⟩
      exact h h0
  | fault f => simp [outcomeOf]
  | refused r => simp [outcomeOf]

/-! ### The line (60_exceptions.md R247) -/

/-- With nothing queued nothing is consumed. -/
theorem consumeQueued_nil (P : Params) {s : State} (h : s.fifo = []) :
    consumeQueued P s = .next s := by
  unfold consumeQueued
  rw [h]
  rfl

/-- The only word of the path, offered and consumed, is the event it decodes to. -/
theorem consumeQueued_offered {P : Params} {s : State} {q : QueuedWord} {i : Instr}
    (hf : s.fault = 0) (hq : s.fifo = []) (hd : decodeQueued P.tagW q = .ok i) :
    consumeQueued P (offerWord q s) = execWith P i s := by
  have e : ({ offerWord q s with fifo := [] } : State) = s := by
    simp only [offerWord, ← hq]
  have ht : takeWord P (execWith P) (offerWord q s) = execWith P i s := by
    have hs : (offerWord q s).fifo = [q] := by simp [offerWord, hq]
    unfold takeWord
    rw [if_neg (not_not.mpr (show (offerWord q s).fault = 0 from hf)), hs]
    simp only [hd]
    rw [e]
  unfold consumeQueued
  rw [show (offerWord q s).fifo.length = 1 by simp [offerWord, hq], takeWords, ht]
  cases execWith P i s <;> rfl

/-- What the Translator changes: the tail of the path, by one word. -/
theorem translatorStep_eq (P : Params) (a : LineArrival) (s : State) :
    translatorStep P a s =
      { s with fifo := s.fifo ++ [encode P.tagW (translateArrival P s.collecting a)] } := rfl

end Sys2Proof.Machine
end

