-- ==== Sys2Proof/Laws/Transitions.lean ====
section
/-! SUPPORT. What a bounded retry, a collected byte, a transition rule and an event can answer, said once: a
property of the next state is proved from these cases instead of from the matrix. -/

namespace Sys2Proof.Machine

/-- A bounded retry answers a restart, with exactly one counter incremented and its target's bytes
re-sent, or Idle with the failure status (40_engine_core.md R117, 42_initiator.md R180). -/
theorem retry_next {P : Params} {a : RetryAction} {s t : State} (h : retry P a s = .next t) :
    (∃ c : Counter, ∃ u, u = c.write (c.read s + 1) s ∧ c.read s + 1 < Config.retryCap ∧
      (t = enterBidSend P u ∨ enterTransmit P u = .next t)) ∨
    ∃ c : Counter, t = idleEntry (emit (.status .transmissionFailure)
      (c.write (c.read s + 1) s)) := by
  rw [retry_eq] at h
  split at h
  · refine .inl ⟨_, _, rfl, by assumption, ?_⟩
    have ht : a.target = .bidSend ∨ a.target = .transmit := by
      cases a <;> simp [RetryAction.target]
    rcases ht with ht | ht <;> rw [ht] at h
    · cases h; exact .inl rfl
    · exact .inr h
  · cases h; exact .inr ⟨_, rfl⟩

/-- A length byte is held, and the second one also parses the length and enters Payload or
FrameEndEscape (41_responder.md R153). -/
theorem lengthByte_next {P : Params} {v : Byte} {s t : State} (h : lengthByte P v s = .next t) :
    ∃ lb, s.lenbuf.write s.lenCount.toNat v = some lb ∧
      ((s.lenCount + 1 ≠ 2 ∧ t = { s with lenbuf := lb, lenCount := s.lenCount + 1 }) ∨
        (s.lenCount + 1 = 2 ∧ t = enterResting P
          (if lb.bigEndian = 0 then .frameEndEscape else .payload)
          { s with lenbuf := lb, lenCount := s.lenCount + 1, rxLen := lb.bigEndian })) := by
  unfold lengthByte at h
  split at h
  · cases h
  · rename_i lb hlb
    refine ⟨lb, hlb, ?_⟩
    split at h
    · rename_i h2
      right
      refine ⟨h2, ?_⟩
      split at h <;> rename_i h0
      · rw [if_pos h0]; cases h; rfl
      · rw [if_neg h0]; cases h; rfl
    · rename_i h2
      cases h; exact .inl ⟨h2, rfl⟩

/-- A checksum byte is held, and the second one also enters ChecksumCheck (R163). -/
theorem checksumByte_next {P : Params} {v : Byte} {s t : State}
    (h : checksumByte P v s = .next t) :
    ∃ cb, s.crcbuf.write s.crcCount.toNat v = some cb ∧
      ((s.crcCount + 1 ≠ 2 ∧ t = { s with crcbuf := cb, crcCount := s.crcCount + 1 }) ∨
        (s.crcCount + 1 = 2 ∧
          enterChecksumCheck P { s with crcbuf := cb, crcCount := s.crcCount + 1 } = .next t)) := by
  unfold checksumByte at h
  split at h
  · cases h
  · rename_i cb hcb
    refine ⟨cb, hcb, ?_⟩
    split at h
    · rename_i h2; exact .inr ⟨h2, h⟩
    · rename_i h2; cases h; exact .inl ⟨h2, rfl⟩

/-- What a transition rule can answer, over the whole matrix of 43_event_instructions.md R222; a bounded
retry is caused by a line error, a valid `Timeout` or a nak of the frame (42_initiator.md R180). -/
theorem transition_next_induct {P : Params} {c : EventClass} {s : State} {Q : State → Prop}
    (stays : Q s)
    (enters : ∀ S, S.resting = true → S ≠ .idle → s.state ≠ .idle → S.role = s.state.role →
      (S = .payload → False) → (S = .frameEndEscape → False) →
      (S = .lengthField → s.state = .frameStart) → (S = .frameEnd → s.state = .frameEndEscape) →
      (S = .checksum → s.state = .frameEnd) → Q (enterResting P S s))
    (bidden : s.state = .idle → c = .escape → Q (enterResting P .bidWait s))
    (acks : s.state = .bidWait ∨ s.state = .frameStart →
      Q (enterResting P .frameSync (emit (.sendBytes (ackSeq P)) s)))
    (naks : s.state.role = .responder → Q (nakAndResync P s))
    (idles : s.state ≠ .idle → Q (idleEntry s))
    (aborts : s.state.role ≠ .initiator → Q (abortWithNak P s))
    (completes : s.state = .frameAck →
      Q (idleEntry (emit (.status .transmissionComplete) s)))
    (rebids : s.state = .bidAck → Q (enterBidSend P s))
    (transmits : s.state = .bidAck → ∀ t, enterTransmit P s = .next t → Q t)
    (retries : s.state.role = .initiator →
      c = .lineErr ∨ c = .timeout ∨ (c = .nak ∧ s.state = .frameAck) →
      ∀ a t, retry P a s = .next t → Q t)
    (lengths : s.state = .lengthField → ∀ v t, c = .data v → lengthByte P v s = .next t → Q t)
    (payloads : s.state = .payload → ∀ v t, c = .data v → payloadByte P v s = .next t → Q t)
    (checks : s.state = .checksum → ∀ v t, c = .data v → checksumByte P v s = .next t → Q t)
    {t : State} (h : transition P c s = .next t) : Q t := by
  unfold transition at h
  split at h <;> rename_i hs
  case h_14 => cases h
  case h_15 => cases h
  case h_16 => cases h
  all_goals
    simp only [idleOn, bidWaitOn, frameSyncOn, frameStartOn, lengthFieldOn, payloadOn,
      frameEndEscapeOn, frameEndOn, checksumOn, bidAckWaitOn, bidAckOn, frameAckWaitOn,
      frameAckOn] at h
  all_goals split at h
  all_goals first
    | (cases h; exact stays)
    | exact transmits hs _ h
    | exact retries (by rw [hs]; rfl) (by simp [hs]) _ _ h
    | exact lengths hs _ _ rfl h
    | exact payloads hs _ _ rfl h
    | exact checks hs _ _ rfl h
    | (cases h; exact naks (by rw [hs]; rfl))
    | (cases h; exact aborts (by rw [hs]; decide))
    | (cases h; exact completes hs)
    | (cases h; exact rebids hs)
    | (cases h; exact bidden hs rfl)
    | (cases h; exact acks (by simp [hs]))
    | (cases h; exact idles (by rw [hs]; decide))
    | (cases h; exact enters _ (by decide) (by decide) (by rw [hs]; decide) (by rw [hs]; rfl)
        (by decide) (by decide) (by simp [hs]) (by simp [hs]) (by simp [hs]))

/-- What an event can answer: a stale `Timeout` nothing, `Send` its bid, a model fault its bit, any
other event the transition rule of its class (30_encoding.md R84, 40_engine_core.md R110, 60_exceptions.md
R235). -/
theorem execWith_next_induct {P : Params} {i : Instr} {s : State} {Q : State → Prop}
    (stays : Q s)
    (transits : ∀ c t, (c = .escape → Instr.isEscape i = true) →
      (∀ v, c = .data v → i = .dataByte v) → (c = .nak → i = .nakByte) →
      (c = .lineErr → i = .lineError) →
      (c = .timeout → ∃ g, i = .timeout g ∧ timeoutValid g s = true) →
      transition P c s = .next t → Q t)
    (sends : ∀ p, i = .send p → s.state = .idle → p.length ≤ P.maxTxLen.val →
      Q (enterBidSend P (storePending p s)))
    (faults : ∀ c, (∃ p, i = .send p) ∨ i.reservedRow = true → Q (raiseFault c s))
    {t : State} (h : execWith P i s = .next t) : Q t := by
  cases i
  case timeout g =>
    simp only [execWith, timeoutWith] at h
    split at h
    · rename_i hv
      exact transits _ _ (by rintro ⟨⟩) (by rintro _ ⟨⟩) (by rintro ⟨⟩) (by rintro ⟨⟩)
        (fun _ => ⟨g, rfl, hv⟩) h
    · cases h; exact stays
  case send p =>
    simp only [execWith, sendWith] at h
    split at h
    · cases h; exact faults _ (.inl ⟨_, rfl⟩)
    · split at h
      · cases h; exact faults _ (.inl ⟨_, rfl⟩)
      · rename_i h1 h2
        cases h; exact sends _ rfl (by simpa using h1) (by omega)
  case reservedC => cases h; exact faults _ (.inr rfl)
  case reservedD => cases h; exact faults _ (.inr rfl)
  case reservedE => cases h; exact faults _ (.inr rfl)
  case reservedF => cases h; exact faults _ (.inr rfl)
  all_goals
    exact transits _ _ (by simp [Instr.isEscape]) (by intro v hv; cases hv <;> rfl)
      (by simp) (by simp) (by simp) h

end Sys2Proof.Machine
end

