-- ==== Sys2Proof/Tests/Slice0.lean ====
section
/-! SUPPORT. Tests: the smoke of WellFormed, a written-out word for every constructor, one step per test from
the vectors of spec/95_test_vectors.md under its parameter set P0, and for every statement with
hypotheses a concrete state and operands that meet them. -/

namespace Sys2Proof.Tests

open Sys2Proof.Machine Sys2Proof.Statements

/-! ### The parameter set P0 and small states -/

/-- `sum16` of 95_test_vectors.md. -/
def sum16 (bs : Bytes) : Half := bs.foldl (fun n b => n + b.setWidth 16) 0

/-- P0 of 95_test_vectors.md. -/
def p0 : Params where
  escCode := 0xE0
  bidCode := 0xE1
  ackCode := 0xE2
  nakCode := 0xE3
  startCode := 0xE4
  endCode := 0xE5
  checksum := sum16
  tagW := 8
  tDeadline := 0
  maxTxLen := ⟨65535, by decide⟩
  counterMap := .byStage
  abortSendsNak := false
  armAllWaitStates := true

/-- P0 with `MAX_TX_LEN` = 1. -/
def pShort : Params := { p0 with maxTxLen := ⟨1, by decide⟩ }

/-- P0 with `ABORT_SENDS_NAK` = true. -/
def pAbort : Params := { p0 with abortSendsNak := true }

/-- P0 with `TAG_W` = 2. -/
def pNarrow : Params := { p0 with tagW := 2, tagW_pos := by decide }

/-- P0 with `TAG_W` = 16. -/
def pWide : Params := { p0 with tagW := 16, tagW_pos := by decide }

/-- P0 with `COUNTER_MAP` = `BY_PHASE`. -/
def pPhase : Params := { p0 with counterMap := .byPhase }

/-- A state of the engine with the Deadline armed under a tag. -/
def armed (S : EngineState) (t : Nat) : State :=
  { State.reset with state := S, dlArmed := true, dlTag := t }

/-- The Deadline has fired. -/
def fired (s : State) : State := { s with dlFired := true }

/-- The payload `[0x01, 0x02]` is pending. -/
def pending (s : State) : State :=
  { s with pfValid := true, pfLen := 2, pfBytes := [(0, 0x01), (1, 0x02)] }

/-- The payload `[0x01, 0x02]` has been received. -/
def received (s : State) : State :=
  { s with
    lenbuf := ⟨0x00, 0x02⟩
    lenCount := 2
    rxLen := 2
    dataCount := 2
    databuf := [(0, 0x01), (1, 0x02)] }

/-- The words at the head of the path. -/
def offered (w : Nat) (s : State) : State := { s with fifo := [⟨w, []⟩] }

/-- A check of the next state. -/
def after (r : Result) (check : State → Bool) : Bool :=
  match r with
  | .next s => check s
  | .fault _ => false
  | .refused _ => false

/-! ### WellFormed: an ill-formed term for each check -/

theorem test_wellFormed_accepts : Instr.wellFormed pShort (.send [0x41]) = true := by decide

theorem test_wellFormed_refuses_reserved_code : Instr.wellFormed pShort .reservedC = false := by
  decide

theorem test_wellFormed_refuses_long_payload :
    Instr.wellFormed pShort (.send [0x41, 0x42]) = false := by decide

theorem test_wellFormed_refuses_long_tag :
    Instr.wellFormed pShort (.timeout 256) = false ∧ Instr.wellFormed pWide (.timeout 256) = true := by
  decide

theorem test_word_refuses_long_word :
    QueuedWord.wellFormed pShort ⟨0x1000000, []⟩ = false ∧
      QueuedWord.wellFormed pWide ⟨0x1000000, []⟩ = true := by decide

theorem test_word_accepts : QueuedWord.wellFormed pShort ⟨0xFF000A, []⟩ = true := by
  decide

theorem test_word_refuses_reserved_code : QueuedWord.wellFormed pShort ⟨0x00000F, []⟩ = false := by
  decide

theorem test_word_refuses_reserved_bits : QueuedWord.wellFormed pShort ⟨0x000010, []⟩ = false := by
  decide

theorem test_word_refuses_stray_payload : QueuedWord.wellFormed pShort ⟨0x000007, [1]⟩ = false := by
  decide

theorem test_word_refuses_long_payload :
    QueuedWord.wellFormed pShort ⟨0x00000B, [1, 2]⟩ = false := by decide

/-! ### Decoding: words written out from 30_encoding.md R81 and R83 -/

theorem test_decode_lineBidByte1 : decode 8 0x000000#24 [] = .ok .lineBidByte1 := by rfl

theorem test_decode_lineBidByte2 : decode 8 0x000001#24 [] = .ok .lineBidByte2 := by rfl

theorem test_decode_frameStartEscape : decode 8 0x000002#24 [] = .ok .frameStartEscape := by rfl

theorem test_decode_frameStartMarker : decode 8 0x000003#24 [] = .ok .frameStartMarker := by rfl

theorem test_decode_dataByte : decode 8 0xFF4104#24 [] = .ok (.dataByte 0x41) := by rfl

theorem test_decode_frameEndEscape : decode 8 0x000005#24 [] = .ok .frameEndEscape := by rfl

theorem test_decode_frameEndMarker : decode 8 0x000006#24 [] = .ok .frameEndMarker := by rfl

theorem test_decode_ackByte : decode 8 0x000007#24 [] = .ok .ackByte := by rfl

theorem test_decode_nakByte : decode 8 0x000008#24 [] = .ok .nakByte := by rfl

theorem test_decode_lineError : decode 8 0x000009#24 [] = .ok .lineError := by rfl

theorem test_decode_timeout : decode 8 0x03AB0A#24 [] = .ok (.timeout 3) := by rfl

theorem test_decode_send : decode 8 0x12AB0B#24 [0xAA] = .ok (.send [0xAA]) := by rfl

theorem test_decode_reservedC : decode 8 0x00001C#24 [] = .ok .reservedC := by rfl

theorem test_decode_reservedD : decode 8 0x00000D#24 [] = .ok .reservedD := by rfl

theorem test_decode_reservedE : decode 8 0xFFFFFE#24 [] = .ok .reservedE := by rfl

theorem test_decode_reservedF : decode 8 0x00000F#24 [] = .ok .reservedF := by rfl

theorem test_decode_reserved_bits : decode 8 0x000010#24 [] = .error .reservedBits := by rfl

/-- R81 at other widths: the tag field is `word[16+TAG_W-1:16]`. -/
theorem test_decode_widths :
    decode 2 0x2000A#18 [] = .ok (.timeout 2) ∧ decode 16 0x0102410A#32 [] = .ok (.timeout 0x102) ∧
      decodeQueued 2 ⟨0x2000A, []⟩ = .ok (.timeout 2) ∧
      encodeWord 16 (.timeout 0x102) = 0x0102000A#32 := ⟨rfl, rfl, rfl, by decide⟩

theorem test_decodeTableWord : decodeTableWord 24 0x00E004 = some (.dataByte 0xE0) := by decide

theorem test_encode_dataByte : encodeWord 8 (.dataByte 0xE0) = 0x00E004#24 := by decide

theorem test_encode_timeout : encodeWord 8 (.timeout 2) = 0x02000A#24 := by decide

/-! ### One step, from the vectors of 95_test_vectors.md -/

/-- VI03 -/
theorem test_lineBidByte1_idle :
    after (execWith p0 .lineBidByte1 State.reset)
      (fun s => s.state == .bidWait && s.dlTag == 1 && s.dlArmed && s.effects.isEmpty) = true := by
  decide

/-- VR11 -/
theorem test_lineBidByte1_frameStart :
    after (execWith p0 .lineBidByte1 (armed .frameStart 3))
      (fun s => s.state == .frameSync && s.dlTag == 4 && s.effects.isEmpty) = true := by decide

/-- VR01 -/
theorem test_lineBidByte2_bidWait :
    after (execWith p0 .lineBidByte2 (armed .bidWait 1))
      (fun s => s.state == .frameSync && s.dlTag == 2 &&
        s.effects == [.sendBytes [0xE0, 0xE2]]) = true := by decide

/-- VN05 -/
theorem test_lineBidByte2_rebid :
    after (execWith p0 .lineBidByte2 { pending (armed .bidAck 2) with c0 := 1 })
      (fun s => s.state == .bidAckWait && s.dlTag == 3 && s.c0 == 1 && s.c1 == 0 &&
        s.effects == [.sendBytes [0xE0, 0xE1]]) = true := by decide

/-- P2 step 3 -/
theorem test_frameStartEscape_frameSync :
    after (execWith p0 .frameStartEscape (received (armed .frameSync 2)))
      (fun s => s.state == .frameStart && s.dlTag == 3 && s.lenCount == 0 && s.dataCount == 0) =
      true := by decide

/-- VN18 -/
theorem test_frameStartEscape_frameAck :
    after (execWith p0 .frameStartEscape (pending (armed .frameAck 4)))
      (fun s => s.state == .frameAckWait && s.dlTag == 5 && s.effects.isEmpty) = true := by decide

/-- P2 step 4 -/
theorem test_frameStartMarker_frameStart :
    after (execWith p0 .frameStartMarker (armed .frameStart 3))
      (fun s => s.state == .lengthField && s.dlTag == 4) = true := by decide

/-- VR26 -/
theorem test_frameStartMarker_frameEnd :
    after (execWith p0 .frameStartMarker (received (armed .frameEnd 7)))
      (fun s => s.state == .frameSync && s.dlTag == 8 &&
        s.effects == [.sendBytes [0xE0, 0xE3]]) = true := by decide

/-- VR16 -/
theorem test_dataByte_big_endian :
    after (execWith p0 (.dataByte 0x02)
        { armed .lengthField 4 with lenCount := 1, lenbuf := ⟨0x01, 0x00⟩ })
      (fun s => s.state == .payload && s.dlTag == 5 && s.rxLen == 0x0102) = true := by decide

/-- VR29 -/
theorem test_dataByte_little_endian :
    after (execWith p0 (.dataByte 0x01)
        { received (armed .checksum 8) with crcCount := 1, crcbuf := ⟨0xCA, 0x00⟩ })
      (fun s => s.state == .idle && s.dlTag == 8 && !s.dlArmed &&
        s.effects == [.sendBytes [0xE0, 0xE2], .frame [0x01, 0x02]]) = true := by decide

/-- VI04 -/
theorem test_frameEndEscape_idle :
    after (execWith p0 .frameEndEscape State.reset)
      (fun s => s.state == .bidWait && s.dlTag == 1) = true := by decide

/-- VR09 -/
theorem test_frameEndEscape_frameSync :
    after (execWith p0 .frameEndEscape (armed .frameSync 2))
      (fun s => s.state == .frameStart && s.dlTag == 3) = true := by decide

/-- VR27 -/
theorem test_frameEndMarker_frameEnd :
    after (execWith p0 .frameEndMarker (received (armed .frameEnd 7)))
      (fun s => s.state == .checksum && s.dlTag == 8 && s.crcCount == 0) = true := by decide

/-- VR24 -/
theorem test_frameEndMarker_frameEndEscape :
    after (execWith p0 .frameEndMarker (received (armed .frameEndEscape 6)))
      (fun s => s.state == .frameSync && s.dlTag == 7 &&
        s.effects == [.sendBytes [0xE0, 0xE3]]) = true := by decide

/-- VN06 -/
theorem test_ackByte_bidAck :
    after (execWith p0 .ackByte (pending (armed .bidAck 2)))
      (fun s => s.state == .frameAckWait && s.dlTag == 3 &&
        s.effects == [.sendBytes [0x01, 0x02]]) = true := by decide

/-- VN14 -/
theorem test_ackByte_frameAck :
    after (execWith p0 .ackByte (pending (armed .frameAck 4)))
      (fun s => s.state == .idle && s.dlTag == 4 && !s.pfValid &&
        s.effects == [.status .transmissionComplete]) = true := by decide

/-- VN15 -/
theorem test_nakByte_frameAck :
    after (execWith p0 .nakByte (pending (armed .frameAck 4)))
      (fun s => s.state == .frameAckWait && s.dlTag == 5 && s.c1 == 1 &&
        s.effects == [.sendBytes [0x01, 0x02]]) = true := by decide

/-- VN09 -/
theorem test_nakByte_bidAck :
    after (execWith p0 .nakByte (pending (armed .bidAck 2)))
      (fun s => s.state == .bidAckWait && s.dlTag == 3 && s.c0 == 0 && s.c1 == 0 &&
        s.effects.isEmpty) = true := by decide

/-- VI06 -/
theorem test_lineError_abort_nak :
    after (execWith pAbort .lineError State.reset)
      (fun s => s.state == .idle && s.dlTag == 0 && s.effects == [.sendBytes [0xE0, 0xE3]]) =
      true := by decide

/-- VN04 -/
theorem test_lineError_third_attempt :
    after (execWith p0 .lineError { pending (armed .bidAckWait 3) with c0 := 2 })
      (fun s => s.state == .idle && s.c0 == 0 && s.c1 == 0 && !s.pfValid &&
        s.effects == [.status .transmissionFailure]) = true := by decide

/-- VR04 -/
theorem test_timeout_wrong_tag :
    after (execWith p0 (.timeout 0) (fired (armed .bidWait 1)))
      (fun s => s == fired (armed .bidWait 1)) = true := by decide

/-- R118, R128: the tag wraps from `2^TAG_W - 1` to 0, at its own width. -/
theorem test_tag_wraps :
    after (execWith p0 .lineBidByte1 { State.reset with dlTag := 255 }) (fun s => s.dlTag == 0) = true ∧
      after (execWith pNarrow .lineBidByte1 { State.reset with dlTag := 3 }) (fun s => s.dlTag == 0) =
        true ∧
      after (execWith pWide .lineBidByte1 { State.reset with dlTag := 255 })
        (fun s => s.dlTag == 256) = true := by decide

/-- VN12 -/
theorem test_timeout_by_phase :
    after (execWith pPhase (.timeout 3) (fired (pending (armed .frameAckWait 3))))
      (fun s => s.state == .frameAckWait && s.dlTag == 4 && s.c0 == 0 && s.c1 == 1 &&
        s.effects == [.sendBytes [0x01, 0x02]]) = true := by decide

/-- VI01 -/
theorem test_send_idle :
    after (execWith p0 (.send [0x01, 0x02]) State.reset)
      (fun s => s.state == .bidAckWait && s.dlTag == 1 && s.pfValid && s.pfLen == 2 &&
        s.pfBytes == [(0, 0x01), (1, 0x02)] && s.effects == [.sendBytes [0xE0, 0xE1]]) = true := by
  decide

/-- VF05 -/
theorem test_send_bidWait :
    after (execWith p0 (.send [0x01]) (armed .bidWait 1))
      (fun s => s == { armed .bidWait 1 with fault := 0b0001 }) = true := by decide

/-- VF01 -/
theorem test_reservedC :
    after (stepWith p0 (offered 0x00000C State.reset))
      (fun s => s == { State.reset with fault := 0b0010 }) = true := by decide

/-- R92 -/
theorem test_reservedD :
    after (stepWith p0 (offered 0x00000D (armed .payload 5)))
      (fun s => s == { armed .payload 5 with fault := 0b0010 }) = true := by decide

/-- VF04: the code check comes before the reserved-bits check. -/
theorem test_reservedE_before_bits :
    after (stepWith p0 (offered 0x00001E State.reset)) (fun s => s.fault == 0b0010) = true := by
  decide

/-- VF02 -/
theorem test_reservedF :
    after (stepWith p0 (offered 0x00000F State.reset)) (fun s => s.fault == 0b0010) = true := by
  decide

/-- VF06 -/
theorem test_reserved_bits_before_send :
    after (stepWith p0 (offered 0x00001B (armed .bidWait 1))) (fun s => s.fault == 0b0100) =
      true := by decide

/-- VF08 -/
theorem test_faulted_block_waits :
    after (stepWith p0 { offered 0x000000 (armed .bidWait 1) with fault := 0b0001 })
      (fun s => s == { offered 0x000000 (armed .bidWait 1) with fault := 0b0001 }) = true := by
  decide

/-- VF09 -/
theorem test_reset_clears_fault :
    after (stepWith p0 { armed .payload 5 with fault := 0b0001, sched := [.reset] })
      (fun s => s == State.reset) = true := by decide

/-- R238: the word of the current tag joins the tail. -/
theorem test_fire :
    after (stepWith p0 { offered 0x000001 (armed .bidWait 1) with sched := [.fire] })
      (fun s => s.dlFired && s.fifo == [⟨0x000001, []⟩, ⟨0x01000A, []⟩]) = true := by decide

/-- R238 with a wide tag: the word and its number. -/
theorem test_fire_wide :
    after (stepWith pWide { armed .bidWait 0x102 with sched := [.fire] })
      (fun s => s.fifo == [⟨0x0102000A, []⟩]) = true := by decide

/-- The machine's own step on a table row's word, as the first instruction after reset. -/
theorem test_withFetchWord :
    after (step (State.reset.withFetchWord 24 0x000000)) (fun s => s.state == .bidWait) = true := by
  decide

/-- 20_memory.md R60: the buffers are canonical at reset. -/
theorem test_reset_memory_canonical :
    Memory.wf State.reset.databuf = true ∧ Memory.wf State.reset.pfBytes = true := by decide

/-- R94 and R100: the event image of `FRAME [0x01, 0x02]`, as program P2 lists it. -/
theorem test_event_image :
    (eventImage [0x01, 0x02] (frameChecksum p0 [0x01, 0x02])).map (fun i => (encode 8 i).word) =
      [0x000002, 0x000003, 0x000004, 0x000204, 0x000104, 0x000204, 0x000005, 0x000006, 0x00CA04,
        0x000104] := by decide

/-- The canonical form: writing the byte an unlisted address reads as takes the entry out (log entry 7). -/
theorem test_memory_erases :
    Memory.write [(0, 0x01), (1, 0x02)] 1 0x00 = [(0, 0x01)] ∧
      Memory.read [(0, 0x01)] 1 = 0x00 ∧ Memory.wf [(1, 0x02), (0, 0x01)] = false ∧
      Memory.wf [(0, 0x00)] = false := by decide

/-- A payload of zero bytes is sent as it was given. -/
theorem test_zero_payload :
    after (execWith p0 .ackByte { pending (armed .bidAck 2) with pfBytes := [] })
      (fun s => s.effects == [.sendBytes [0x00, 0x00]]) = true := by decide

/-- R247: a transport fault appends the word of `LineError`. -/
theorem test_translator_transport_fault :
    (translatorStep p0 ⟨.transportFault, .frameStartEscape⟩
      (offered 0x000001 (armed .payload 5))).fifo =
      [⟨0x000001, []⟩, ⟨0x000009, []⟩] := by decide

/-- R247: the escape byte is data where bytes are collected, and one of three events elsewhere. -/
theorem test_translator_collecting :
    (translatorStep p0 ⟨.byte 0xE0, .lineBidByte1⟩ (armed .payload 5)).fifo =
        [⟨0x00E004, []⟩] ∧
      (translatorStep p0 ⟨.byte 0xE0, .frameEndEscape⟩ (armed .frameEndEscape 6)).fifo =
        [⟨0x000005, []⟩] ∧
      translatorAllows p0 false (.byte 0xE0) .lineBidByte1 = true ∧
      translatorAllows p0 false (.byte 0xE0) .ackByte = false := by decide

/-- Items 8 and 9 of program P8: the second item is not consumed, the run is reported as faulted. -/
theorem test_report_faulted :
    outcomeOf (armed .frameSync 6)
        (runScript p0 [.event (.send [0x42]), .event .frameStartEscape] (armed .frameSync 6)) =
      .faulted ⟨[], { armed .frameSync 6 with fault := 0b0001 }, 0b0001⟩ := by rfl

/-- VI03 as a run from reset: its normal end. -/
theorem test_report_ended :
    scriptOutcome p0 [.event .lineBidByte1] = .ended ⟨[], armed .bidWait 1, 0⟩ := by rfl

/-- R270: a run with a word left has no end yet. -/
theorem test_report_unfinished :
    runOutcome p0 0 (State.resetWithin [⟨0x000000, []⟩] []) =
      .unfinished (offered 0x000000 State.reset) := by rfl

/-! ### Witnesses: the hypotheses of each statement are met together, at the ends of their ranges -/

/-- The parameters of the machine's own instance. -/
abbrev pm : Params := Config.params

/-- A payload of the largest length. -/
def longest : Bytes := List.replicate 65535 0x41

/-- A payload one byte longer. -/
def tooLong : Bytes := List.replicate 65536 0x41

theorem longest_length : longest.length = 65535 := List.length_replicate

theorem tooLong_length : tooLong.length = 65536 := List.length_replicate

/-- IdleEscapeEntersBidWait, IdleLineErrorAborts, EscapeEventsAreOneClass -/
theorem test_witness_idle_escape :
    State.reset.state = .idle ∧ .lineBidByte1 ∈ escapes ∧ .frameEndEscape ∈ escapes := by decide

/-- SendStoresAndBidsOrFaults: its first clause -/
theorem test_witness_send :
    State.reset.state = .idle ∧ ([] : Bytes).length ≤ pm.maxTxLen.val ∧
      longest.length ≤ pm.maxTxLen.val :=
  ⟨rfl, Nat.zero_le _, longest_length.le⟩

/-- SendStoresAndBidsOrFaults: its other two clauses -/
theorem test_witness_send_faults :
    (armed .bidWait 1).state ≠ .idle ∧ State.reset.state = .idle ∧
      pm.maxTxLen.val < tooLong.length :=
  ⟨by decide, rfl, tooLong_length.symm ▸ (by decide : 65535 < 65536)⟩

/-- StayArmsChangeNothing, CollectingStatesResyncOnLoss: the states of each clause -/
theorem test_witness_stay :
    State.reset.state = .idle ∧ (armed .lengthField 4).state = .lengthField ∧
      (armed .payload 5).state = .payload ∧ (armed .checksum 8).state = .checksum ∧
      (armed .bidAckWait 1).state = .bidAckWait ∧ (armed .frameAckWait 3).state = .frameAckWait := by
  decide

/-- BidWaitRow, FrameSyncRow, ValidTimeoutIsSpent: a valid timeout -/
theorem test_witness_valid_timeout :
    (fired (armed .bidWait 1)).state = .bidWait ∧ ValidTimeout 1 (fired (armed .bidWait 1)) ∧
      (fired (armed .frameSync 255)).state = .frameSync ∧
      ValidTimeout 255 (fired (armed .frameSync 255)) :=
  ⟨rfl, ⟨rfl, rfl, rfl⟩, rfl, ⟨rfl, rfl, rfl⟩⟩

/-- The rows with a lost reply: both causes -/
theorem test_witness_lost_reply :
    LostReply .lineError (armed .frameStart 3) ∧ LostReply (.timeout 3) (fired (armed .frameStart 3)) ∧
      LostReply (.timeout 6) (fired (armed .frameEndEscape 6)) ∧
      LostReply (.timeout 7) (fired (armed .frameEnd 7)) ∧
      LostReply (.timeout 5) (fired (armed .payload 5)) :=
  ⟨.inl rfl, .inr ⟨3, rfl, rfl, rfl, rfl⟩, .inr ⟨6, rfl, rfl, rfl, rfl⟩,
    .inr ⟨7, rfl, rfl, rfl, rfl⟩, .inr ⟨5, rfl, rfl, rfl, rfl⟩⟩

/-- LengthBytesAreCollected: the first byte, and the second one of the lengths 0 and 65535 -/
theorem test_witness_length_bytes :
    (armed .lengthField 4).lenCount = 0 ∧
      ({ armed .lengthField 4 with lenCount := 1 }).lenCount = 1 ∧
      (0 : Half).toNat = (0x00 : Byte).toNat * 256 + (0x00 : Byte).toNat ∧
      (0xFFFF : Half).toNat = (0xFF : Byte).toNat * 256 + (0xFF : Byte).toNat := by decide

/-- PayloadBytesAreCollected: the last byte of a payload of 1 and of 65535 bytes, and a byte between -/
theorem test_witness_payload_bytes :
    ({ armed .payload 5 with rxLen := 1 }).dataCount < ({ armed .payload 5 with rxLen := 1 }).rxLen ∧
      ({ armed .payload 5 with rxLen := 0xFFFF, dataCount := 0xFFFE }).dataCount < 0xFFFF ∧
      ({ armed .payload 5 with rxLen := 2 }).dataCount + 1 ≠ 2 := by decide

/-- FrameEndRows -/
theorem test_witness_frame_end :
    (armed .frameEndEscape 6).state = .frameEndEscape ∧ (armed .frameEnd 7).state = .frameEnd := by
  decide

/-- ChecksumBytesAreChecked: the first byte, and the second one with an empty and a full payload -/
theorem test_witness_checksum_bytes :
    (received (armed .checksum 8)).crcCount = 0 ∧
      ({ received (armed .checksum 8) with crcCount := 1 }).crcCount = 1 ∧
      Received { received (armed .checksum 8) with crcCount := 1 } [0x01, 0x02] ∧
      Received { armed .checksum 7 with lenCount := 2, crcCount := 1 } [] := by
  unfold Received; decide

/-- The initiator rows: a pending payload, an empty one too, and both ends of a counter -/
theorem test_witness_pending :
    Pending pm (pending (armed .bidAck 2)) [0x01, 0x02] ∧
      Pending pm { armed .bidAck 2 with pfValid := true } [] ∧
      Pending pPhase (pending (armed .frameAckWait 3)) [0x01, 0x02] ∧
      valueOf .c0 (pending (armed .frameAckWait 3)) < 2 ∧
      valueOf .c1 { pending (armed .frameAck 4) with c1 := 1 } < 2 ∧
      valueOf .c0 { pending (armed .bidAckWait 1) with c0 := 2 } = 2 ∧
      valueOf .c1 { pending (armed .frameAck 4) with c1 := 2 } = 2 := by
  unfold Pending; decide

/-- BidAckWaitRow, BidAckRow, FrameAckWaitRow, FrameAckRow, RetryCountersUnderEitherMap -/
theorem test_witness_retries :
    (pending (armed .bidAckWait 1)).state = .bidAckWait ∧ (pending (armed .bidAck 2)).state = .bidAck ∧
      (pending (armed .frameAckWait 3)).state = .frameAckWait ∧
      (pending (armed .frameAck 4)).state = .frameAck ∧
      LostReply (.timeout 1) (fired (pending (armed .bidAckWait 1))) ∧
      LostReply (.timeout 2) (fired (pending (armed .bidAck 2))) ∧
      LostReply (.timeout 3) (fired (pending (armed .frameAckWait 3))) ∧
      LostReply (.timeout 4) (fired (pending (armed .frameAck 4))) :=
  ⟨rfl, rfl, rfl, rfl, .inr ⟨1, rfl, rfl, rfl, rfl⟩, .inr ⟨2, rfl, rfl, rfl, rfl⟩,
    .inr ⟨3, rfl, rfl, rfl, rfl⟩, .inr ⟨4, rfl, rfl, rfl, rfl⟩⟩

/-- StaleTimeoutIsNoOp: not armed, not fired, another tag -/
theorem test_witness_stale_timeout :
    ¬ ValidTimeout 0 State.reset ∧ ¬ ValidTimeout 1 (armed .bidWait 1) ∧
      ¬ ValidTimeout 0 (fired (armed .bidWait 1)) := by
  unfold ValidTimeout; decide

/-- ValidTimeoutIsSpent -/
theorem test_witness_timeout_spent :
    (fired (armed .frameSync 2)).state ≠ .idle ∧ ValidTimeout 2 (fired (armed .frameSync 2)) ∧
      execWith p0 (.timeout 2) (fired (armed .frameSync 2)) =
        .next { State.reset with dlTag := 2 } :=
  ⟨by decide, ⟨rfl, rfl, rfl⟩, rfl⟩

/-- A block with no word waiting takes any number of steps in place. -/
theorem run_waits (t : Nat) : ∀ n, runWith p0 n { State.reset with dlTag := t } =
    .next { State.reset with dlTag := t }
  | 0 => rfl
  | n + 1 => run_waits t n

/-- A waiting block arms nothing. -/
theorem armings_waits : ∀ n, armings p0 n { State.reset with dlTag := 1 } = 0
  | 0 => rfl
  | n + 1 => (Nat.zero_add _).trans (armings_waits n)

/-- The step from BidWait to Idle and the waiting after it arm nothing. -/
theorem armings_left (n : Nat) : armings p0 (n + 1) (offered 0x000000 (armed .bidWait 1)) = 0 :=
  (Nat.zero_add _).trans (armings_waits n)

/-- StaleTimerLaw: the arming of tag 1 is left for Idle, and 1000 further steps are taken with no arming -/
theorem test_witness_stale_timer_law :
    (offered 0x000000 (armed .bidWait 1)).dlTag = 1 ∧
      Move.reset ∉ (offered 0x000000 (armed .bidWait 1)).sched ∧
      stepWith p0 (offered 0x000000 (armed .bidWait 1)) =
        .next { State.reset with dlTag := 1 } ∧
      ({ State.reset with dlTag := 1 }).dlArmed = false ∧
      runWith p0 1000 { State.reset with dlTag := 1 } = .next { State.reset with dlTag := 1 } ∧
      armings p0 (1000 + 1) (offered 0x000000 (armed .bidWait 1)) < 2 ^ p0.tagW :=
  ⟨rfl, by decide, rfl, rfl, run_waits 1 1000,
    (armings_left 1000).trans_lt (by decide)⟩

/-- StaleTimerLaw: the arming of tag 1 is left for the next one, and three armings follow it in all, the
most at a width of 2 -/
theorem test_witness_stale_timer_armings :
    stepWith pNarrow { armed .bidWait 1 with fifo := [⟨0x000001, []⟩, ⟨0x000002, []⟩, ⟨0x000003, []⟩] } =
      .next { armed .frameSync 2 with
        fifo := [⟨0x000002, []⟩, ⟨0x000003, []⟩]
        effects := [.sendBytes [0xE0, 0xE2]] } ∧
    runWith pNarrow 2 { armed .frameSync 2 with
        fifo := [⟨0x000002, []⟩, ⟨0x000003, []⟩]
        effects := [.sendBytes [0xE0, 0xE2]] } =
      .next { armed .lengthField 0 with effects := [.sendBytes [0xE0, 0xE2]] } ∧
    armings pNarrow 3
        { armed .bidWait 1 with fifo := [⟨0x000001, []⟩, ⟨0x000002, []⟩, ⟨0x000003, []⟩] } + 1 =
      2 ^ pNarrow.tagW := ⟨rfl, rfl, rfl⟩

/-- EventsMoveTheDeadlineOneArming, CountersChangeOnlyByRetryOrIdle, EffectsOfOneStep,
RolesChangeOnlyThroughIdle, FaultRegisterIsSticky: an event that moves every one of them -/
theorem test_witness_next_state :
    execWith p0 .lineError { pending (armed .bidAckWait 3) with c0 := 1 } =
      .next { pending (armed .bidAckWait 4) with c0 := 2, effects := [.sendBytes [0xE0, 0xE1]] } ∧
    execWith p0 .reservedC State.reset = .next { State.reset with fault := 0b0010 } ∧
    execWith p0 .lineBidByte1 State.reset = .next (armed .bidWait 1) ∧
    execWith p0 .lineBidByte2 (pending (armed .frameAck 4)) =
      .next { pending State.reset with pfValid := false, dlTag := 4 } :=
  ⟨rfl, rfl, rfl, rfl⟩

/-- EffectsOfOneStep: the step with a frame, and one with a status -/
theorem test_witness_effects :
    execWith p0 (.dataByte 0x01)
        { received (armed .checksum 8) with crcCount := 1, crcbuf := ⟨0xCA, 0x00⟩ } =
      .next { received State.reset with
        lenCount := 0
        dataCount := 0
        dlTag := 8
        crcbuf := ⟨0xCA, 0x01⟩
        effects := [.sendBytes [0xE0, 0xE2], .frame [0x01, 0x02]] } ∧
    execWith p0 .ackByte (pending (armed .frameAck 4)) =
      .next { pending State.reset with
        pfValid := false
        dlTag := 4
        effects := [.status .transmissionComplete] } :=
  ⟨rfl, rfl⟩

/-- BuffersChangeOnlyByTheirWriters: a byte received, a payload stored -/
theorem test_witness_buffers :
    execWith p0 (.dataByte 0x07) { armed .payload 5 with lenCount := 2, rxLen := 2 } =
      .next { armed .payload 5 with
        lenCount := 2
        rxLen := 2
        dataCount := 1
        databuf := [(0, 0x07)] } ∧
    execWith p0 (.send [0x09]) State.reset =
      .next { armed .bidAckWait 1 with
        pfValid := true
        pfLen := 1
        pfBytes := [(0, 0x09)]
        effects := [.sendBytes [0xE0, 0xE1]] } :=
  ⟨rfl, rfl⟩

/-- ReservedCodesRaiseTheirFault -/
theorem test_witness_reserved :
    Instr.reservedC ∈ [Instr.reservedC, .reservedD, .reservedE, .reservedF] ∧
      Instr.reservedF ∈ [Instr.reservedC, .reservedD, .reservedE, .reservedF] := by decide

/-- ReservedWordsRaiseOneFault: both forms of the engine's move, and both clauses at the ends of their
ranges -/
theorem test_witness_reserved_words :
    (offered 0x00001C State.reset).sched = [] ∧ (offered 0x00001C State.reset).fault = 0 ∧
      ({ offered 0x00001B State.reset with sched := [.deliver, .fire] }).sched = .deliver :: [.fire] ∧
      (offered 0x00001C State.reset).fifo = [⟨(0x00001C#24).toNat, []⟩] ∧
      0xC#4 ≤ (0x00001C#24).extractLsb' 0 4 ∧ 0xC#4 ≤ (0xFFFFFF#24).extractLsb' 0 4 ∧
      (0x00001B#24).extractLsb' 0 4 < 0xC#4 ∧ (0x00001B#24).extractLsb' 4 4 ≠ 0 ∧
      (0x0000F0#24).extractLsb' 0 4 < 0xC#4 ∧ (0x0000F0#24).extractLsb' 4 4 ≠ 0 := by decide

/-- DecodeEncodeRoundTrip: the largest tag of a width, and an instruction without a tag -/
theorem test_witness_round_trip :
    (∀ t, Instr.timeout 255 = .timeout t → t < 2 ^ 8) ∧
      ∀ t, Instr.reservedF = .timeout t → t < 2 ^ 8 :=
  ⟨fun _ h => by cases h; decide, fun _ h => by cases h⟩

/-- EncodeAgreesWithDecodedWord, DecodingIsTotal: a word of each kind -/
theorem test_witness_decoding :
    decode 8 0xAA55C4#24 [] = .error .reservedBits ∧ decode 8 0xAA5504#24 [] = .ok (.dataByte 0x55) ∧
      decode 8 0xAA550A#24 [] = .ok (.timeout 0xAA) ∧ decode 8 0xAA550B#24 [1] = .ok (.send [1]) ∧
      decode 8 0xAA55FF#24 [] = .ok .reservedF ∧ (0xAA550B#24).extractLsb' 0 4 < 0xC#4 ∧
      (0xAA550B#24).extractLsb' 4 4 = 0 ∧ 0xC#4 ≤ (0xAA55FC#24).extractLsb' 0 4 :=
  ⟨rfl, rfl, rfl, rfl, rfl, by decide, by decide, by decide⟩

/-- IgnoredFieldsHaveNoEffect: words that differ in every ignored bit -/
theorem test_witness_ignored :
    (0x000000#24).extractLsb' 0 8 = (0xFFFF00#24).extractLsb' 0 8 ∧
      (0x004104#24).extractLsb' 0 8 = (0xFF4104#24).extractLsb' 0 8 ∧
      (0x004104#24).extractLsb' 8 8 = (0xFF4104#24).extractLsb' 8 8 ∧
      (0x02000A#24).extractLsb' 16 8 = (0x02FF0A#24).extractLsb' 16 8 := by decide

/-- StepRunsTheDecodedInstruction: either form of the engine's move -/
theorem test_witness_step :
    ((offered 0x000007 State.reset).sched = [] ∧ ([] : List Move) = []) ∧
      ({ offered 0x000007 State.reset with sched := [.deliver, .fire] }).sched =
        .deliver :: [.fire] ∧
      (offered 0x000007 State.reset).fault = 0 ∧
      (offered 0x000007 State.reset).fifo = ⟨(0x000007#24).toNat, []⟩ :: [] ∧
      decode 8 0x000007#24 [] = .ok .ackByte :=
  ⟨⟨rfl, rfl⟩, rfl, rfl, rfl, rfl⟩

/-- FaultedBlockTakesNoStep: each clause -/
theorem test_witness_faulted :
    ({ State.reset with fault := 0b0001 }).fault ≠ 0 ∧
      ({ State.reset with fault := 0b1111, sched := [.deliver] }).sched = .deliver :: [] ∧
      ({ State.reset with fault := 0b1000, sched := [.fire] }).sched = .fire :: [] ∧
      ({ State.reset with fault := 0b1000, sched := [.reset] }).sched = .reset :: [] ∧
      ({ State.reset with fault := 0b1000, sched := [.offer ⟨0, []⟩] }).sched =
        .offer ⟨0, []⟩ :: [] := by decide

/-- FireAppendsTheTimeoutWord, FiredTimeoutIsValidWhenDeliveredNext -/
theorem test_witness_fire :
    ({ armed .bidWait 255 with sched := [.fire, .deliver] }).sched = .fire :: .deliver :: [] ∧
      (armed .bidWait 255).dlArmed = true ∧ (armed .bidWait 255).dlFired = false ∧
      (armed .bidWait 255).dlTag < 2 ^ pm.tagW ∧ (armed .bidWait 255).fault = 0 ∧ (armed .bidWait 255).fifo = [] ∧
      State.reset.dlArmed = false ∧ (fired (armed .bidWait 1)).dlFired = true := by decide

/-- OfferedWordJoinsTheTail, ResetRestoresTheResetValues -/
theorem test_witness_agents :
    ({ armed .payload 5 with sched := [.offer ⟨0x000007, []⟩] }).sched =
        .offer ⟨0x000007, []⟩ :: [] ∧
      ({ armed .payload 5 with sched := [.reset] }).sched = .reset :: [] := by decide

/-- An initiator state with a pending payload satisfies the invariant, under any of these parameters. -/
theorem inv_of_pending (P : Params) (hl : 2 ≤ P.maxTxLen.val) (S : EngineState) (t : Nat)
    (htag : t < 2 ^ P.tagW) (ha : arming P S = true) (hr : S.role = .initiator) (hS : S = .bidAckWait ∨ S = .bidAck ∨
      S = .frameAckWait ∨ S = .frameAck) : (pending (armed S t)).Inv P := by
  rcases hS with rfl | rfl | rfl | rfl <;>
    exact
      { resting := rfl
        c0_le := (by decide : (0 : BitVec 2) ≤ 2)
        c1_le := (by decide : (0 : BitVec 2) ≤ 2)
        idle_counters := fun _ => ⟨rfl, rfl⟩
        armed := ha.symm
        fired := fun _ => rfl
        tag_lt := htag
        pending := (decide_eq_true hr).symm
        lenCount_le := (by decide : (0 : BitVec 2) ≤ 2)
        crcCount_le := (by decide : (0 : BitVec 2) ≤ 2)
        data_le := fun h => absurd h (by decide : ¬ (0 : BitVec 2) = 2)
        length_held := fun h => by rcases h with h | h | h | h <;> cases h
        data_held := fun h => by rcases h with h | h | h <;> cases h
        no_data := fun _ => rfl
        parsed := fun h => absurd h (by decide : ¬ (0 : BitVec 2) = 2)
        idle_assembly := fun _ => ⟨rfl, rfl, rfl⟩
        fresh_assembly := fun _ => ⟨rfl, rfl, rfl⟩
        length_open := fun h => by cases h
        payload_open := fun h => by cases h
        checksum_unread := fun _ => rfl
        checksum_open := fun h => by cases h
        pending_le := fun _ => hl }

/-- StepKeepsInvariant, InvariantStatesAlwaysStep, PendingFrameIsImmutable, RetriesOfACycleAreBounded: a
state that satisfies the invariant and answers a next state -/
theorem test_witness_invariant :
    (pending (armed .bidAckWait 1)).Inv pm ∧ (pending (armed .frameAck 4)).Inv p0 ∧
      (pending (armed .frameAck 4)).pfValid = true ∧
      (pending (armed .frameAck 4)).state.role = .initiator ∧
      step (pending (armed .bidAckWait 1)) = .next (pending (armed .bidAckWait 1)) ∧
      execWith p0 .nakByte (pending (armed .frameAck 4)) =
        .next { pending (armed .frameAckWait 5) with c1 := 1, effects := [.sendBytes [1, 2]] } :=
  ⟨inv_of_pending pm (by decide) .bidAckWait 1 (by decide) rfl rfl (.inl rfl),
    inv_of_pending p0 (by decide) .frameAck 4 (by decide) rfl rfl (.inr (.inr (.inr rfl))),
    rfl, rfl, rfl, rfl⟩

/-- TimeoutInIdleIsNoOp, TimeoutsGiveThreeBidsAndOneFailure, TwoNaksThenAckResendTwice: an Idle state
that satisfies the invariant, some armings after reset -/
theorem test_witness_idle_invariant :
    ({ State.reset with dlTag := 7 }).Inv pm ∧ ({ State.reset with dlTag := 7 }).state = .idle ∧
      ({ State.reset with dlTag := 7 }).fault = 0 ∧ longest.length ≤ pm.maxTxLen.val :=
  ⟨{ resting := rfl
     c0_le := by decide
     c1_le := by decide
     idle_counters := fun _ => ⟨rfl, rfl⟩
     armed := rfl
     fired := fun _ => rfl
     tag_lt := by decide
     pending := rfl
     lenCount_le := (by decide : (0 : BitVec 2) ≤ 2)
     crcCount_le := (by decide : (0 : BitVec 2) ≤ 2)
     data_le := fun h => absurd h (by decide)
     length_held := fun h => by rcases h with h | h | h | h <;> cases h
     data_held := fun h => by rcases h with h | h | h <;> cases h
     no_data := fun _ => rfl
     parsed := fun h => absurd h (by decide)
     idle_assembly := fun _ => ⟨rfl, rfl, rfl⟩
     fresh_assembly := fun _ => ⟨rfl, rfl, rfl⟩
     length_open := fun h => by cases h
     payload_open := fun h => by cases h
     checksum_unread := fun _ => rfl
     checksum_open := fun h => by cases h
     pending_le := fun h => by cases h }, rfl, rfl, longest_length.le⟩

/-- StepKeepsBuffersCanonical -/
theorem test_witness_buffers_canonical :
    (received (pending (armed .bidAckWait 1))).BuffersCanonical pm ∧
      step (received (pending (armed .bidAckWait 1))) =
        .next (received (pending (armed .bidAckWait 1))) :=
  ⟨{ databuf_wf := rfl
     databuf_within := by unfold Memory.WithinSize; decide
     pfBytes_wf := rfl
     pfBytes_within := by unfold Memory.WithinSize; decide }, rfl⟩

/-- Bytes arriving from the line, with the same ESCAPE code given for each escape byte. -/
def arriving (e : EscapeCode) (bs : Bytes) : List LineArrival := bs.map fun b => ⟨.byte b, e⟩

theorem arriving_input (e : EscapeCode) (bs : Bytes) :
    (arriving e bs).map LineArrival.input = bs.map LineInput.byte := by simp [arriving]

/-- ValidFrameIsAckedAndDelivered, CorruptFramesAreNakkedThenAccepted, TranslatorAppendsOneWord -/
theorem test_witness_frames :
    CodesDistinct p0 ∧ (armed .frameSync 2).state = .frameSync ∧ (armed .frameSync 2).fault = 0 ∧
      (armed .frameSync 2).fifo = [] ∧ ([0x01, 0x02] : Bytes).length ≤ Config.rxCap ∧
      (∀ k ∈ [(0 : Half), 0xCA01], k ≠ frameChecksum p0 [0x01, 0x02]) ∧
      (arriving .lineBidByte1 ([(0 : Half), 0xCA01].flatMap (wireFrame p0 [0x01, 0x02]) ++
          wireFrame p0 [0x01, 0x02] (frameChecksum p0 [0x01, 0x02]))).map LineArrival.input =
        ([(0 : Half), 0xCA01].flatMap (wireFrame p0 [0x01, 0x02]) ++
          wireFrame p0 [0x01, 0x02] (frameChecksum p0 [0x01, 0x02])).map LineInput.byte := by
  refine ⟨by decide, rfl, rfl, rfl, ?_, ?_, arriving_input _ _⟩
  · exact (by omega : 2 ≤ 65535)
  · intro k hk
    have h : frameChecksum p0 [0x01, 0x02] = 0x01CA := by rfl
    rw [h]
    rcases List.mem_cons.mp hk with rfl | hk
    · decide
    · rcases List.mem_singleton.mp hk with rfl
      decide

/-- ValidFrameIsAckedAndDelivered: the ends of the range of lengths -/
theorem test_witness_frame_lengths :
    ([] : Bytes).length ≤ Config.rxCap ∧ longest.length ≤ Config.rxCap ∧
      (arriving .frameEndEscape (wireFrame p0 longest (frameChecksum p0 longest))).map
          LineArrival.input =
        (wireFrame p0 longest (frameChecksum p0 longest)).map LineInput.byte :=
  ⟨Nat.zero_le _, longest_length.le, arriving_input _ _⟩

/-- EveryRunIsReported: a run that ends and a faulted run -/
theorem test_witness_run_reported :
    Move.reset ∉ [Move.offer ⟨0x000000, []⟩, .deliver] ∧
      2 * [Move.offer ⟨0x000000, []⟩, .deliver].length + ([] : List QueuedWord).length ≤ 4 ∧
      runWith p0 4 (State.resetWithin [] [.offer ⟨0x000000, []⟩, .deliver]) =
        .next (armed .bidWait 1) ∧
      runWith p0 1 (State.resetWithin [⟨0x00000C, []⟩] []) =
        .next { State.reset with fault := 0b0010 } := by
  refine ⟨by decide, by decide, rfl, rfl⟩

/-- FaultedRunStaysFaulted -/
theorem test_witness_run_faulted :
    ({ State.reset with fault := 0b0001, sched := [.fire, .offer ⟨0, []⟩] }).fault ≠ 0 ∧
      Move.reset ∉ ({ State.reset with fault := 0b0001, sched := [.fire, .offer ⟨0, []⟩] }).sched := by
  decide

/-- NoRunReadsWhatNoRuleWrote: reset with other contents, and a step that writes over them -/
theorem test_witness_same_held :
    (State.resetWithin [⟨0x000000, []⟩] []).Inv p0 ∧
      SameHeld (State.resetWithin [⟨0x000000, []⟩] [])
        { State.resetWithin [⟨0x000000, []⟩] [] with
          lenbuf := ⟨0xFF, 0xFF⟩
          rxLen := 0xFFFF
          databuf := [(0, 0x41), (65534, 0x42)]
          crcbuf := ⟨1, 2⟩
          pfLen := 3
          pfBytes := [(2, 0x43)] } ∧
      runWith p0 1 (State.resetWithin [⟨0x000000, []⟩] []) = .next (armed .bidWait 1) :=
  ⟨{ resting := rfl
     c0_le := (by decide : (0 : BitVec 2) ≤ 2)
     c1_le := (by decide : (0 : BitVec 2) ≤ 2)
     idle_counters := fun _ => ⟨rfl, rfl⟩
     armed := rfl
     fired := fun _ => rfl
     tag_lt := by decide
     pending := rfl
     lenCount_le := (by decide : (0 : BitVec 2) ≤ 2)
     crcCount_le := (by decide : (0 : BitVec 2) ≤ 2)
     data_le := fun h => absurd h (by decide : ¬ (0 : BitVec 2) = 2)
     length_held := fun h => by rcases h with h | h | h | h <;> cases h
     data_held := fun h => by rcases h with h | h | h <;> cases h
     no_data := fun _ => rfl
     parsed := fun h => absurd h (by decide : ¬ (0 : BitVec 2) = 2)
     idle_assembly := fun _ => ⟨rfl, rfl, rfl⟩
     fresh_assembly := fun _ => ⟨rfl, rfl, rfl⟩
     length_open := fun h => by cases h
     payload_open := fun h => by cases h
     checksum_unread := fun _ => rfl
     checksum_open := fun h => by cases h
     pending_le := fun h => by cases h },
   { others := rfl
     len_high := fun h => absurd h (by decide : ¬ (1 : BitVec 2) ≤ 0)
     len_low := fun h => absurd h (by decide : ¬ (0 : BitVec 2) = 2)
     data := fun n h => absurd h (Nat.not_lt_zero n)
     crc_low := fun h => absurd h (by decide : ¬ (1 : BitVec 2) ≤ 0)
     crc_high := fun h => absurd h (by decide : ¬ (0 : BitVec 2) = 2)
     pending := fun h => by cases h }, rfl⟩

/-- CorrectRepliesSendThePayloadOnce, RebidsNeverTouchACounter -/
theorem test_witness_cycles :
    .frameStartEscape ∈ escapes ∧ State.reset.state = .idle ∧ State.reset.fault = 0 ∧
      (pending (armed .bidAck 2)).state = .bidAck ∧ (pending (armed .bidAck 2)).fault = 0 := by decide

end Sys2Proof.Tests
end

/-! ## Frames over all events

What an event can answer, coarsely: at most one state entry, made after effects, retry counters and
the receive path were written. The frames over all events follow from these cases. -/

namespace Sys2Proof.Machine

/-- `u` is `s` but for its effects, its retry counters and what the receive path holds: all that a rule
may write before it enters a state. -/
structure PreparedFrom (s u : State) : Prop where
  state : u.state = s.state
  dlArmed : u.dlArmed = s.dlArmed
  dlTag : u.dlTag = s.dlTag
  dlFired : u.dlFired = s.dlFired
  pfValid : u.pfValid = s.pfValid
  pfLen : u.pfLen = s.pfLen
  pfBytes : u.pfBytes = s.pfBytes
  fault : u.fault = s.fault
  fifo : u.fifo = s.fifo
  sched : u.sched = s.sched

namespace PreparedFrom

theorem refl (s : State) : PreparedFrom s s := ⟨rfl, rfl, rfl, rfl, rfl, rfl, rfl, rfl, rfl, rfl⟩

theorem after_emit {s u : State} (h : PreparedFrom s u) (e : Effect) :
    PreparedFrom s (emit e u) := { h with }

theorem after_counterWrite (c : Counter) (v : BitVec 2) (s : State) : PreparedFrom s (c.write v s) := by
  constructor <;> simp

/-- Whatever the receive path holds (10_state.md R30). -/
theorem collected (s : State) (lenCount : BitVec 2) (lenbuf : TwoBytes) (rxLen dataCount : Half)
    (databuf : Memory) (crcCount : BitVec 2) (crcbuf : TwoBytes) :
    PreparedFrom s { s with lenCount, lenbuf, rxLen, dataCount, databuf, crcCount, crcbuf } :=
  { refl s with }

end PreparedFrom

/-- At most one state entry, from `u` to `t` (40_engine_core.md R113). -/
def EntersOnce (P : Params) (u t : State) : Prop :=
  t = u ∨ (∃ S, t = enterResting P S u) ∨ t = idleEntry u

/-- An entry to ChecksumCheck is one entry, to FrameSync or to Idle, after its effects (41_responder.md
R166). -/
theorem enterChecksumCheck_entersOnce {P : Params} {s t : State}
    (h : enterChecksumCheck P s = .next t) : ∃ u, PreparedFrom s u ∧ EntersOnce P u t := by
  obtain ⟨bs, -, rfl⟩ := enterChecksumCheck_next.mp h
  split
  · exact ⟨_, ((PreparedFrom.refl s).after_emit _).after_emit _, .inr (.inr rfl)⟩
  · exact ⟨_, (PreparedFrom.refl s).after_emit _, .inr (.inl ⟨_, rfl⟩)⟩

/-- An entry to Transmit is one entry, to FrameAckWait, after its effect (42_initiator.md R190). -/
theorem enterTransmit_entersOnce {P : Params} {s t : State} (h : enterTransmit P s = .next t) :
    ∃ u, PreparedFrom s u ∧ EntersOnce P u t := by
  obtain ⟨-, bs, -, rfl⟩ := enterTransmit_next.mp h
  exact ⟨_, (PreparedFrom.refl s).after_emit _, .inr (.inl ⟨_, rfl⟩)⟩

/-- A bounded retry is one entry after a counter was written (40_engine_core.md R117). -/
theorem retry_entersOnce {P : Params} {a : RetryAction} {s t : State} (h : retry P a s = .next t) :
    ∃ u, PreparedFrom s u ∧ EntersOnce P u t := by
  rcases retry_next h with ⟨c, u, rfl, -, rfl | ht⟩ | ⟨c, rfl⟩
  · exact ⟨_, (PreparedFrom.after_counterWrite c _ s).after_emit _, .inr (.inl ⟨_, rfl⟩)⟩
  · obtain ⟨-, bs, -, rfl⟩ := enterTransmit_next.mp ht
    exact ⟨_, (PreparedFrom.after_counterWrite c _ s).after_emit _, .inr (.inl ⟨_, rfl⟩)⟩
  · exact ⟨_, (PreparedFrom.after_counterWrite c _ s).after_emit _, .inr (.inr rfl)⟩

/-- Every transition rule makes at most one state entry (R112, R113). -/
theorem transition_entersOnce {P : Params} {c : EventClass} {s t : State}
    (h : transition P c s = .next t) : ∃ u, PreparedFrom s u ∧ EntersOnce P u t := by
  have same := PreparedFrom.refl s
  apply transition_next_induct (h := h)
  case stays => exact ⟨s, same, .inl rfl⟩
  case enters => exact fun S _ _ _ _ _ _ _ _ _ => ⟨s, same, .inr (.inl ⟨S, rfl⟩)⟩
  case bidden => exact fun _ _ => ⟨s, same, .inr (.inl ⟨_, rfl⟩)⟩
  case acks | naks | rebids => exact fun _ => ⟨_, same.after_emit _, .inr (.inl ⟨_, rfl⟩)⟩
  case idles => exact fun _ => ⟨s, same, .inr (.inr rfl)⟩
  case completes => exact fun _ => ⟨_, same.after_emit _, .inr (.inr rfl)⟩
  case aborts =>
    refine fun _ => ⟨_, ?_, .inr (.inr rfl)⟩
    split
    · exact same.after_emit _
    · exact same
  case transmits => exact fun _ _ => enterTransmit_entersOnce
  case retries => exact fun _ _ _ _ => retry_entersOnce
  case lengths =>
    intro _ v t _ ht
    obtain ⟨lb, -, ⟨-, rfl⟩ | ⟨-, rfl⟩⟩ := lengthByte_next ht
    · exact ⟨_, .collected s .., .inl rfl⟩
    · exact ⟨_, .collected s .., .inr (.inl ⟨_, rfl⟩)⟩
  case payloads =>
    intro _ v t _ ht
    obtain ⟨-, rfl⟩ := payloadByte_next.mp ht
    split
    · exact ⟨_, .collected s .., .inr (.inl ⟨_, rfl⟩)⟩
    · exact ⟨_, .collected s .., .inl rfl⟩
  case checks =>
    intro _ v t _ ht
    obtain ⟨cb, -, ⟨-, rfl⟩ | ⟨-, ht⟩⟩ := checksumByte_next ht
    · exact ⟨_, .collected s .., .inl rfl⟩
    · obtain ⟨u, hu, hut⟩ := enterChecksumCheck_entersOnce ht
      exact ⟨u, { hu with }, hut⟩

/-- What an event can answer: at most one state entry from a prepared state, the bid of a `Send`, or a
model fault's bit. -/
theorem execWith_next_cases {P : Params} {i : Instr} {s t : State} (h : execWith P i s = .next t) :
    (∃ u, PreparedFrom s u ∧ EntersOnce P u t) ∨
    (∃ p, i = .send p ∧ s.state = .idle ∧ t = enterBidSend P (storePending p s)) ∨
    ∃ c, ((∃ p, i = .send p) ∨ i.reservedRow = true) ∧ t = raiseFault c s := by
  apply execWith_next_induct (h := h)
  case stays => exact .inl ⟨s, .refl s, .inl rfl⟩
  case transits => exact fun c t _ _ _ _ _ ht => .inl (transition_entersOnce ht)
  case sends => exact fun p hi hs _ => .inr (.inl ⟨p, hi, hs, rfl⟩)
  case faults => exact fun c hc => .inr (.inr ⟨c, hc, rfl⟩)

/-- A state entry writes the Deadline once: disarmed, or armed under the next tag (R115, R118). -/
theorem EntersOnce.deadline {P : Params} {u t : State} (h : EntersOnce P u t) :
    (t.dlArmed = u.dlArmed ∧ t.dlTag = u.dlTag ∧ t.dlFired = u.dlFired) ∨
    (t.dlArmed = false ∧ t.dlTag = u.dlTag ∧ t.dlFired = false) ∨
    (t.dlArmed = true ∧ t.dlTag = (u.dlTag + 1) % 2 ^ P.tagW ∧ t.dlFired = false) := by
  rcases h with rfl | ⟨S, rfl⟩ | rfl
  · exact .inl ⟨rfl, rfl, rfl⟩
  · cases hS : arming P S <;> simp [hS]
  · exact .inr (.inl ⟨rfl, rfl, rfl⟩)

/-- A state entry keeps the pending payload's bytes, and clears `pf_valid` only by entering Idle
(10_state.md R32). -/
theorem EntersOnce.pending {P : Params} {u t : State} (h : EntersOnce P u t) :
    t.pfBytes = u.pfBytes ∧ t.pfLen = u.pfLen ∧ (t.pfValid = u.pfValid ∨ t.state = .idle) := by
  rcases h with rfl | ⟨S, rfl⟩ | rfl <;> simp

/-- A model fault's bit joins the ones that were set (60_exceptions.md R233). -/
theorem and_raiseFault_fault (c : FaultCode) (s : State) :
    s.fault &&& (raiseFault c s).fault = s.fault := by
  ext n hn
  simp +contextual [raiseFault]

/-- A state entry touches neither the fault register nor the environment (10_state.md R33, R37). -/
theorem EntersOnce.environment {P : Params} {u t : State} (h : EntersOnce P u t) :
    t.fault = u.fault ∧ t.fifo = u.fifo ∧ t.sched = u.sched := by
  rcases h with rfl | ⟨S, rfl⟩ | rfl <;> simp

end Sys2Proof.Machine

namespace Sys2Proof.Proofs

open Sys2Proof Sys2Proof.Machine Sys2Proof.Statements

/-- Settles O20: an event makes at most one state entry, and an entry arms at most once. -/
theorem eventsMoveTheDeadlineOneArming : Obligations.EventsMoveTheDeadlineOneArming := by
  unfold Obligations.EventsMoveTheDeadlineOneArming
  intro P i s t h
  rcases execWith_next_cases h with ⟨u, hu, ht⟩ | ⟨p, -, -, rfl⟩ | ⟨c, -, rfl⟩
  · rw [← hu.dlArmed, ← hu.dlTag, ← hu.dlFired]
    exact ht.deadline
  · exact .inr (.inr (by simp))
  · exact .inl ⟨rfl, rfl, rfl⟩

/-- Settles O42: only `Send` in Idle stores a payload, and in Idle the invariant has none pending. -/
theorem pendingFrameIsImmutable : Obligations.PendingFrameIsImmutable := by
  unfold Obligations.PendingFrameIsImmutable
  intro P i s t hinv hv h
  rcases execWith_next_cases h with ⟨u, hu, ht⟩ | ⟨p, -, hs, -⟩ | ⟨c, -, rfl⟩
  · obtain ⟨hbytes, hlen, hvalid⟩ := ht.pending
    refine ⟨hbytes.trans hu.pfBytes, hlen.trans hu.pfLen, fun hf => hvalid.resolve_left ?_⟩
    simp [hf, hu.pfValid, hv]
  · have hnone := hinv.pending
    simp [hv, hs, EngineState.role] at hnone
  · exact ⟨rfl, rfl, fun hf => by simp [hv] at hf⟩

/-- Settles O43: every answer but a model fault's keeps the fault register. -/
theorem faultRegisterIsSticky : Obligations.FaultRegisterIsSticky := by
  unfold Obligations.FaultRegisterIsSticky
  intro P i s t h
  rcases execWith_next_cases h with ⟨u, hu, ht⟩ | ⟨p, hi, -, rfl⟩ | ⟨c, hc, rfl⟩
  · obtain ⟨hfault, hfifo, hsched⟩ := ht.environment
    have hkept : t.fault = s.fault := hfault.trans hu.fault
    exact ⟨by simp [hkept], hfifo.trans hu.fifo, hsched.trans hu.sched, fun hne => absurd hkept hne⟩
  · exact ⟨by simp, by simp, by simp, fun _ => .inl ⟨p, hi⟩⟩
  · exact ⟨and_raiseFault_fault c s, rfl, rfl, fun _ => hc⟩

/-- Settles O37, by evaluating the start state. -/
theorem resetStateHasTheTableValues : Obligations.ResetStateHasTheTableValues := by
  unfold Obligations.ResetStateHasTheTableValues
  decide

end Sys2Proof.Proofs

/-! ## The retry counters

Which answers of an event keep them, clear them or increment one. -/

namespace Sys2Proof.Machine

/-- Both retry counters as they were, or both cleared on entering Idle (10_state.md R27). -/
def KeepsOrClearsCounters (s t : State) : Prop :=
  (t.c0 = s.c0 ∧ t.c1 = s.c1) ∨ (t.state = .idle ∧ t.c0 = 0 ∧ t.c1 = 0)

/-- Exactly one retry counter incremented (10_state.md R26). -/
def IncrementsOneCounter (s t : State) : Prop :=
  (t.c0 = s.c0 + 1 ∧ t.c1 = s.c1) ∨ (t.c0 = s.c0 ∧ t.c1 = s.c1 + 1)

theorem incrementsOneCounter_write (c : Counter) (s : State) :
    IncrementsOneCounter s (c.write (c.read s + 1) s) := by
  cases c
  · exact .inl ⟨rfl, rfl⟩
  · exact .inr ⟨rfl, rfl⟩

/-- A bounded retry increments one counter and restarts as the initiator, or clears both in Idle
(40_engine_core.md R117). -/
theorem retry_counters {P : Params} {a : RetryAction} {s t : State} (h : retry P a s = .next t) :
    KeepsOrClearsCounters s t ∨ (t.state.role = .initiator ∧ IncrementsOneCounter s t) := by
  rcases retry_next h with ⟨c, u, rfl, -, rfl | ht⟩ | ⟨c, rfl⟩
  · have hc := incrementsOneCounter_write c s
    exact .inr ⟨by simp [EngineState.role], by simpa [IncrementsOneCounter] using hc⟩
  · have hc := incrementsOneCounter_write c s
    obtain ⟨-, bs, -, rfl⟩ := enterTransmit_next.mp ht
    exact .inr ⟨by simp [EngineState.role], by simpa [IncrementsOneCounter] using hc⟩
  · exact .inl (.inr ⟨rfl, rfl, rfl⟩)

/-- An entry to ChecksumCheck keeps the retry counters or clears them in Idle (41_responder.md R166). -/
theorem enterChecksumCheck_counters {P : Params} {s t : State}
    (h : enterChecksumCheck P s = .next t) : KeepsOrClearsCounters s t := by
  obtain ⟨bs, -, rfl⟩ := enterChecksumCheck_next.mp h
  split
  · exact .inr ⟨rfl, rfl, rfl⟩
  · exact .inl ⟨by simp, by simp⟩

/-- A transition rule keeps the counters or clears them in Idle, unless it is a bounded retry
(42_initiator.md R180). -/
theorem transition_counters {P : Params} {c : EventClass} {s t : State}
    (h : transition P c s = .next t) :
    KeepsOrClearsCounters s t ∨
      ((c = .lineErr ∨ c = .timeout ∨ (c = .nak ∧ s.state = .frameAck)) ∧
        s.state.role = .initiator ∧ t.state.role = .initiator ∧ IncrementsOneCounter s t) := by
  apply transition_next_induct (h := h)
  case stays => exact .inl (.inl ⟨rfl, rfl⟩)
  case enters => exact fun S _ _ _ _ _ _ _ _ _ => .inl (.inl (by simp))
  case bidden => exact fun _ _ => .inl (.inl (by simp))
  case acks | naks | rebids => exact fun _ => .inl (.inl (by simp))
  case idles | completes => exact fun _ => .inl (.inr ⟨rfl, rfl, rfl⟩)
  case aborts => exact fun _ => .inl (.inr (by simp))
  case transmits =>
    intro _ t ht
    obtain ⟨-, bs, -, rfl⟩ := enterTransmit_next.mp ht
    exact .inl (.inl (by simp))
  case retries =>
    exact fun hrole hcause a t ht =>
      (retry_counters ht).imp_right fun ⟨hrole', hone⟩ => ⟨hcause, hrole, hrole', hone⟩
  case lengths =>
    intro _ v t _ ht
    obtain ⟨lb, -, ⟨-, rfl⟩ | ⟨-, rfl⟩⟩ := lengthByte_next ht <;> exact .inl (.inl (by simp))
  case payloads =>
    intro _ v t _ ht
    obtain ⟨-, rfl⟩ := payloadByte_next.mp ht
    split <;> exact .inl (.inl (by simp))
  case checks =>
    intro _ v t _ ht
    obtain ⟨cb, -, ⟨-, rfl⟩ | ⟨-, ht⟩⟩ := checksumByte_next ht
    · exact .inl (.inl ⟨rfl, rfl⟩)
    · have hkept := enterChecksumCheck_counters ht
      exact .inl hkept

end Sys2Proof.Machine

namespace Sys2Proof.Proofs

open Sys2Proof Sys2Proof.Machine Sys2Proof.Statements

/-- Settles O38: only the transition rules of a bounded retry write a counter outside an Idle entry, and
their event classes name the causes. -/
theorem countersChangeOnlyByRetryOrIdle : Obligations.CountersChangeOnlyByRetryOrIdle := by
  unfold Obligations.CountersChangeOnlyByRetryOrIdle
  intro P i s t h
  apply execWith_next_induct (h := h)
  case stays => exact .inl ⟨rfl, rfl⟩
  case sends => exact fun _ _ _ _ => .inl (by simp)
  case faults => exact fun _ _ => .inl ⟨rfl, rfl⟩
  case transits =>
    intro c t _ _ hnak hline htime ht
    rcases transition_counters ht with (hkept | hidle) | ⟨hcause, hrole, hrole', hone⟩
    · exact .inl hkept
    · exact .inr (.inl hidle)
    · refine .inr (.inr ⟨?_, hrole, hrole', hone⟩)
      rcases hcause with hc | hc | ⟨hc, hstate⟩
      · exact .inl (.inl (hline hc))
      · obtain ⟨g, hi, hvalid⟩ := htime hc
        exact .inl (.inr ⟨g, hi, (timeoutValid_iff g s).mp hvalid⟩)
      · exact .inr ⟨hnak hc, hstate⟩

end Sys2Proof.Proofs

/-! ## The invariant kept

The invariant of 40_engine_core.md R127: every operation the rules share keeps it, so every
event does. -/

namespace Sys2Proof.Machine

/-! ### What the operations do to the invariant -/

/-- What the invariant asks of the receive path in the state `S`, but for the counts that an entry to
FrameStart or to Idle clears. -/
structure State.AssemblyFor (S : EngineState) (s : State) : Prop where
  lenCount_le : s.lenCount ≤ 2
  crcCount_le : s.crcCount ≤ 2
  data_le : s.lenCount = 2 → s.dataCount ≤ s.rxLen
  no_data : s.lenCount < 2 → s.dataCount = 0
  parsed : s.lenCount = 2 → s.rxLen = s.lenbuf.bigEndian
  length_held : S = .payload ∨ S = .frameEndEscape ∨ S = .frameEnd ∨ S = .checksum → s.lenCount = 2
  data_held : S = .frameEndEscape ∨ S = .frameEnd ∨ S = .checksum → s.dataCount = s.rxLen
  length_open : S = .lengthField → s.lenCount < 2
  payload_open : S = .payload → s.dataCount < s.rxLen
  checksum_unread : S = .lengthField ∨ S = .payload ∨ S = .frameEndEscape ∨ S = .frameEnd →
    s.crcCount = 0
  checksum_open : S = .checksum → s.crcCount < 2

/-- The states on the way from the length field to the checksum, which ask for more than legal
counts. -/
abbrev EngineState.assembles (S : EngineState) : Prop :=
  S = .lengthField ∨ S = .payload ∨ S = .frameEndEscape ∨ S = .frameEnd ∨ S = .checksum

/-- Outside the path from the length field to the checksum the receive path must hold legal counts
only. -/
theorem State.Inv.assemblyFor {P : Params} {s : State} (h : s.Inv P) {S : EngineState}
    (hS : ¬ S.assembles) : s.AssemblyFor S := by
  simp only [EngineState.assembles, not_or] at hS
  obtain ⟨hlength, hpayload, hescape, hend, hchecksum⟩ := hS
  exact
    { h with
      length_held := by simp [*]
      data_held := by simp [*]
      length_open := by simp [*]
      payload_open := by simp [*]
      checksum_unread := by simp [*]
      checksum_open := by simp [*] }

/-- What each state that assembles a frame holds is what the next one asks for (41_responder.md R148,
R153, R159, R161). -/
theorem State.Inv.assemblyFor_next {P : Params} {s : State} (h : s.Inv P) {S : EngineState}
    (hpayload : S ≠ .payload) (hescape : S ≠ .frameEndEscape)
    (hlength : S = .lengthField → s.state = .frameStart)
    (hend : S = .frameEnd → s.state = .frameEndEscape)
    (hchecksum : S = .checksum → s.state = .frameEnd) : s.AssemblyFor S := by
  by_cases hS : S.assembles
  · rcases hS with rfl | rfl | rfl | rfl | rfl
    · obtain ⟨hl, -, hc⟩ := h.fresh_assembly (hlength rfl)
      exact { h with
        length_held := by simp
        data_held := by simp
        length_open := by simp [hl]
        payload_open := by simp
        checksum_unread := by simp [hc]
        checksum_open := by simp }
    · exact absurd rfl hpayload
    · exact absurd rfl hescape
    · have hs := hend rfl
      exact { h with
        length_held := by simp [h.length_held, hs]
        data_held := by simp [h.data_held, hs]
        length_open := by simp
        payload_open := by simp
        checksum_unread := by simp [h.checksum_unread, hs]
        checksum_open := by simp }
    · have hs := hchecksum rfl
      exact { h with
        length_held := by simp [h.length_held, hs]
        data_held := by simp [h.data_held, hs]
        length_open := by simp
        payload_open := by simp
        checksum_unread := by simp
        checksum_open := by simp [h.checksum_unread, hs] }
  · exact h.assemblyFor hS

/-- The invariant reads neither the fault register nor the environment (10_state.md R33, R37). -/
theorem State.Inv.withEnvironment {P : Params} {s : State} (h : s.Inv P) (fault : BitVec 4)
    (fifo : List QueuedWord) (effects : List Effect) (sched : List Move) :
    ({ s with fault, fifo, effects, sched } : State).Inv P := { h with }

theorem State.Inv.after_emit {P : Params} {s : State} (h : s.Inv P) (e : Effect) :
    (emit e s).Inv P := h.withEnvironment ..

/-- An entry to Idle gives the invariant, whatever the other registers held (40_engine_core.md R115). -/
theorem inv_idleEntry {P : Params} {s : State} (htag : s.dlTag < 2 ^ P.tagW) :
    (idleEntry s).Inv P := by
  constructor <;> simp [EngineState.resting, EngineState.transient, EngineState.role, arming, htag]

/-- An entry keeps what its state asks of the receive path; FrameStart clears the counts (R148). -/
theorem State.AssemblyFor.after_enterResting {P : Params} {S : EngineState} {s : State}
    (h : s.AssemblyFor S) : (enterResting P S s).AssemblyFor S := by
  by_cases hS : S = .frameStart
  · subst hS
    constructor <;> simp
  · exact
    { lenCount_le := by simpa [hS] using h.lenCount_le
      crcCount_le := by simpa [hS] using h.crcCount_le
      data_le := by simpa [hS] using h.data_le
      no_data := by simpa [hS] using h.no_data
      parsed := by simpa [hS] using h.parsed
      length_held := by simpa [hS] using h.length_held
      data_held := by simpa [hS] using h.data_held
      length_open := by simpa [hS] using h.length_open
      payload_open := by simpa [hS] using h.payload_open
      checksum_unread := by simpa [hS] using h.checksum_unread
      checksum_open := by simpa [hS] using h.checksum_open }

/-- The tag after an arming, or without one, has `TAG_W` bits (10_state.md R28). -/
theorem enterResting_dlTag_lt {P : Params} (S : EngineState) {s : State}
    (htag : s.dlTag < 2 ^ P.tagW) : (enterResting P S s).dlTag < 2 ^ P.tagW := by
  rw [enterResting_dlTag]
  split
  · exact Nat.mod_lt _ (Nat.two_pow_pos _)
  · exact htag

/-- An entry to another resting state gives the invariant where the receive path holds what that state
asks for and a payload is pending exactly for an initiator (R113, R116). -/
theorem inv_enterResting {P : Params} {S : EngineState} {s : State} (hr : S.resting = true)
    (hi : S ≠ .idle) (hc0 : s.c0 ≤ 2) (hc1 : s.c1 ≤ 2) (htag : s.dlTag < 2 ^ P.tagW)
    (hpending : s.pfValid = decide (S.role = .initiator))
    (hlen : s.pfValid = true → s.pfLen.toNat ≤ P.maxTxLen.val) (ha : s.AssemblyFor S) :
    (enterResting P S s).Inv P := by
  have hassembly : (enterResting P S s).AssemblyFor (enterResting P S s).state := by
    rw [enterResting_state]; exact ha.after_enterResting
  exact
    { hassembly with
      resting := by simpa using hr
      c0_le := by simpa using hc0
      c1_le := by simpa using hc1
      idle_counters := by simp [hi]
      armed := by simp
      fired := by simp
      tag_lt := enterResting_dlTag_lt S htag
      pending := by simpa using hpending
      idle_assembly := by simp [hi]
      fresh_assembly := by simp +contextual
      pending_le := by simpa using hlen }

/-- An entry from a state of the invariant, between states that agree on being the initiator. -/
theorem State.Inv.after_enterResting {P : Params} {S : EngineState} {s : State} (h : s.Inv P)
    (hr : S.resting = true) (hi : S ≠ .idle)
    (hrole : S.role = .initiator ↔ s.state.role = .initiator) (ha : s.AssemblyFor S) :
    (enterResting P S s).Inv P :=
  inv_enterResting hr hi h.c0_le h.c1_le h.tag_lt (by simp only [hrole, h.pending]) h.pending_le ha

/-- The same after an effect, for a state that asks nothing of the receive path. -/
theorem State.Inv.after_emit_enterResting {P : Params} {S : EngineState} {s : State} (h : s.Inv P)
    (e : Effect) (hr : S.resting = true) (hi : S ≠ .idle)
    (hrole : S.role = .initiator ↔ s.state.role = .initiator) (hS : ¬ S.assembles) :
    (enterResting P S (emit e s)).Inv P :=
  (h.after_emit e).after_enterResting hr hi hrole ((h.after_emit e).assemblyFor hS)

/-- `Send`'s bid from Idle: the stored payload is the pending one (R122, 42_initiator.md R182). -/
theorem State.Inv.after_send {P : Params} {s : State} (h : s.Inv P) {p : Bytes}
    (hp : p.length ≤ P.maxTxLen.val) : (enterBidSend P (storePending p s)).Inv P := by
  have hlen : (BitVec.ofNat 16 p.length).toNat ≤ P.maxTxLen.val := by
    rw [BitVec.toNat_ofNat]; exact (Nat.mod_le ..).trans hp
  have ha : s.AssemblyFor .bidAckWait := h.assemblyFor (by decide)
  exact inv_enterResting rfl (by decide) h.c0_le h.c1_le h.tag_lt rfl (fun _ => hlen) { ha with }

/-- A counter incremented below the cap, outside Idle (10_state.md R25, R27). -/
theorem State.Inv.after_counterWrite {P : Params} {s : State} (h : s.Inv P) (hi : s.state ≠ .idle)
    {c : Counter} (hcap : c.read s + 1 < Config.retryCap) :
    (c.write (c.read s + 1) s).Inv P := by
  have hle : c.read s + 1 ≤ 2 := by bv_omega
  cases c
  · exact { h with c0_le := hle, idle_counters := fun hs => absurd hs hi }
  · exact { h with c1_le := hle, idle_counters := fun hs => absurd hs hi }

/-- An initiator's entry to BidSend keeps the invariant (42_initiator.md R182). -/
theorem State.Inv.after_enterBidSend {P : Params} {s : State} (h : s.Inv P)
    (hrole : s.state.role = .initiator) : (enterBidSend P s).Inv P :=
  h.after_emit_enterResting _ rfl (by decide) (iff_of_true rfl hrole) (by decide)

/-- An entry to Transmit keeps the invariant (R190). -/
theorem State.Inv.after_enterTransmit {P : Params} {s t : State} (h : s.Inv P)
    (ht : enterTransmit P s = .next t) : t.Inv P := by
  obtain ⟨hv, bs, -, rfl⟩ := enterTransmit_next.mp ht
  have hrole : s.state.role = .initiator := by simpa [hv] using h.pending
  exact h.after_emit_enterResting _ rfl (by decide) (iff_of_true rfl hrole) (by decide)

/-- A bounded retry keeps the invariant (40_engine_core.md R117). -/
theorem State.Inv.after_retry {P : Params} {a : RetryAction} {s t : State} (h : s.Inv P)
    (hrole : s.state.role = .initiator) (ht : retry P a s = .next t) : t.Inv P := by
  have hi : s.state ≠ .idle := by intro hs; simp [hs, EngineState.role] at hrole
  rcases retry_next ht with ⟨c, u, rfl, hcap, rfl | ht⟩ | ⟨c, rfl⟩
  · exact (h.after_counterWrite hi hcap).after_enterBidSend (by simpa using hrole)
  · exact (h.after_counterWrite hi hcap).after_enterTransmit ht
  · exact inv_idleEntry (by simpa using h.tag_lt)

/-- nak-and-resync by the responder keeps the invariant (R120). -/
theorem State.Inv.after_nakAndResync {P : Params} {s : State} (h : s.Inv P)
    (hrole : s.state.role ≠ .initiator) : (nakAndResync P s).Inv P :=
  h.after_emit_enterResting _ rfl (by decide) (iff_of_false (by decide) hrole) (by decide)

/-! ### Collected bytes -/

/-- Once the length is parsed and nothing else is held, the receive path is ready for the payload, or for
the end of an empty frame (41_responder.md R153). -/
theorem State.AssemblyFor.of_parsed {s : State} (hlen : s.lenCount = 2) (hdata : s.dataCount = 0)
    (hcrc : s.crcCount = 0) (hparsed : s.rxLen = s.lenbuf.bigEndian) :
    s.AssemblyFor (if s.rxLen = 0 then .frameEndEscape else .payload) := by
  split
  · next hzero => constructor <;> simp [hlen, hdata, hcrc, hzero, ← hparsed]
  · next hne =>
    have hpos : 0#16 < s.rxLen := by bv_omega
    have hle : 0#16 ≤ s.rxLen := BitVec.le_of_lt hpos
    constructor <;> simp [hlen, hdata, hcrc, hpos, hle, ← hparsed]

/-- A length byte keeps the invariant: the second one parses the length, with no payload byte held yet
(R153). -/
theorem State.Inv.after_lengthByte {P : Params} {v : Byte} {s t : State} (h : s.Inv P)
    (hs : s.state = .lengthField) (ht : lengthByte P v s = .next t) : t.Inv P := by
  have hopen := h.length_open hs
  have hdata := h.no_data hopen
  have hcrc := h.checksum_unread (.inl hs)
  obtain ⟨lb, -, ⟨hne, rfl⟩ | ⟨htwo, rfl⟩⟩ := lengthByte_next ht
  · have hlt : s.lenCount + 1 < 2 := by bv_omega
    exact
      { h with
        lenCount_le := BitVec.le_of_lt hlt
        data_le := fun h2 => absurd h2 hne
        length_held := by simp [hs]
        no_data := fun _ => hdata
        parsed := fun h2 => absurd h2 hne
        idle_assembly := by simp [hs]
        fresh_assembly := by simp [hs]
        length_open := fun _ => hlt }
  · refine inv_enterResting ?_ ?_ h.c0_le h.c1_le h.tag_lt ?_ h.pending_le
      (State.AssemblyFor.of_parsed (s := { s with
        lenbuf := lb, lenCount := s.lenCount + 1, rxLen := lb.bigEndian }) htwo hdata hcrc rfl)
    · split <;> rfl
    · split <;> decide
    · rw [h.pending, hs]; split <;> rfl

/-- A payload byte keeps the invariant: `data_count` was below the parsed length (R156). -/
theorem State.Inv.after_payloadByte {P : Params} {v : Byte} {s t : State} (h : s.Inv P)
    (hs : s.state = .payload) (ht : payloadByte P v s = .next t) : t.Inv P := by
  have hopen := h.payload_open hs
  have hlen := h.length_held (.inl hs)
  have hcrc := h.checksum_unread (.inr (.inl hs))
  have hle : s.dataCount + 1 ≤ s.rxLen := by bv_omega
  obtain ⟨-, rfl⟩ := payloadByte_next.mp ht
  split
  · next hlast =>
    refine inv_enterResting rfl (by decide) h.c0_le h.c1_le h.tag_lt ?_ h.pending_le ?_
    · rw [h.pending, hs]; rfl
    · exact
        { h with
          data_le := fun _ => hle
          no_data := by simp [hlen]
          length_held := fun _ => hlen
          data_held := fun _ => hlast
          length_open := by simp
          payload_open := by simp
          checksum_unread := fun _ => hcrc
          checksum_open := by simp }
  · next hmore =>
    have hlt : s.dataCount + 1 < s.rxLen := by bv_omega
    exact
      { h with
        data_le := fun _ => hle
        data_held := by simp [hs]
        no_data := by simp [hlen]
        idle_assembly := by simp [hs]
        fresh_assembly := by simp [hs]
        payload_open := fun _ => hlt }

/-- A checksum byte keeps the invariant: the second one enters ChecksumCheck (R163, R166). -/
theorem State.Inv.after_checksumByte {P : Params} {v : Byte} {s t : State} (h : s.Inv P)
    (hs : s.state = .checksum) (ht : checksumByte P v s = .next t) : t.Inv P := by
  have hopen := h.checksum_open hs
  have hle : s.crcCount + 1 ≤ 2 := by bv_omega
  have hheld (cb : TwoBytes) :
      ({ s with crcbuf := cb, crcCount := s.crcCount + 1 } : State).AssemblyFor .frameSync :=
    { h.assemblyFor (S := .frameSync) (by decide) with
      crcCount_le := hle
      checksum_unread := by simp
      checksum_open := by simp }
  obtain ⟨cb, -, ⟨hne, rfl⟩ | ⟨-, ht⟩⟩ := checksumByte_next ht
  · exact
      { h with
        crcCount_le := hle
        idle_assembly := by simp [hs]
        fresh_assembly := by simp [hs]
        checksum_unread := by simp [hs]
        checksum_open := fun _ => by bv_omega }
  · obtain ⟨bs, -, rfl⟩ := enterChecksumCheck_next.mp ht
    split
    · exact inv_idleEntry h.tag_lt
    · refine inv_enterResting rfl (by decide) h.c0_le h.c1_le h.tag_lt ?_ h.pending_le
        { hheld cb with }
      simp [h.pending, hs, EngineState.role]

/-! ### Events -/

/-- Every transition rule keeps the invariant. -/
theorem State.Inv.after_transition {P : Params} {c : EventClass} {s t : State} (h : s.Inv P)
    (ht : transition P c s = .next t) : t.Inv P := by
  apply transition_next_induct (h := ht)
  case stays => exact h
  case enters =>
    intro S hr hi _ hrole hpayload hescape hlength hend hchecksum
    exact h.after_enterResting hr hi (by rw [hrole])
      (h.assemblyFor_next hpayload hescape hlength hend hchecksum)
  case bidden =>
    intro hs _
    exact h.after_enterResting rfl (by decide) (by simp [hs, EngineState.role])
      (h.assemblyFor (by decide))
  case acks =>
    intro hs
    refine h.after_emit_enterResting _ rfl (by decide) ?_ (by decide)
    rcases hs with hs | hs <;> simp [hs, EngineState.role]
  case naks => exact fun hrole => h.after_nakAndResync (by simp [hrole])
  case idles | completes => exact fun _ => inv_idleEntry h.tag_lt
  case aborts =>
    refine fun _ => inv_idleEntry ?_
    split <;> exact h.tag_lt
  case rebids => exact fun hs => h.after_enterBidSend (by rw [hs]; rfl)
  case transmits => exact fun _ _ => h.after_enterTransmit
  case retries => exact fun hrole _ _ _ => h.after_retry hrole
  case lengths => exact fun hs _ _ _ => h.after_lengthByte hs
  case payloads => exact fun hs _ _ _ => h.after_payloadByte hs
  case checks => exact fun hs _ _ _ => h.after_checksumByte hs

/-- Every event keeps the invariant. -/
theorem State.Inv.after_execWith {P : Params} {i : Instr} {s t : State} (h : s.Inv P)
    (ht : execWith P i s = .next t) : t.Inv P := by
  apply execWith_next_induct (h := ht)
  case stays => exact h
  case transits => exact fun _ _ _ _ _ _ _ => h.after_transition
  case sends => exact fun _ _ _ => h.after_send
  case faults => exact fun _ _ => h.withEnvironment ..

end Sys2Proof.Machine

/-! ## Progress

In a state of the invariant no access leaves its buffer, no transient state is held and Transmit finds
its payload: every event and every move answers a next state (10_state.md R23, 20_memory.md R60). -/

namespace Sys2Proof.Machine

/-- A payload within `MAX_TX_LEN` lies in TXP, so a pending one can be transmitted (42_initiator.md
R190). -/
theorem enterTransmit_answers {P : Params} {s : State} (hv : s.pfValid = true)
    (hlen : s.pfLen.toNat ≤ P.maxTxLen.val) : ∃ t, enterTransmit P s = .next t :=
  ⟨_, enterTransmit_next.mpr ⟨hv, _, memRead_within (sp := .txp) _ hlen, rfl⟩⟩

/-- Every 16-bit length lies in RXDATA, so ChecksumCheck can read its payload (41_responder.md R166). -/
theorem enterChecksumCheck_answers (P : Params) (s : State) :
    ∃ t, enterChecksumCheck P s = .next t := by
  have hlen : s.rxLen.toNat ≤ Space.size P .rxData := Nat.le_of_lt_succ s.rxLen.isLt
  exact ⟨_, enterChecksumCheck_next.mpr ⟨_, memRead_within _ hlen, rfl⟩⟩

/-- With a payload pending a bounded retry answers, at the cap or below it (40_engine_core.md R117). -/
theorem retry_answers {P : Params} (a : RetryAction) {s : State} (hv : s.pfValid = true)
    (hlen : s.pfLen.toNat ≤ P.maxTxLen.val) : ∃ t, retry P a s = .next t := by
  rw [retry_eq]
  split
  · have htransmit := enterTransmit_answers (P := P)
      (s := (a.counter P.counterMap).write ((a.counter P.counterMap).read s + 1) s)
      (by simpa using hv) (by simpa using hlen)
    cases a
    case bid | handshake => exact ⟨_, rfl⟩
    case frameHandshake | frameAck => exact htransmit
  · exact ⟨_, rfl⟩

/-- With fewer than two length bytes held there is room for the next (41_responder.md R153). -/
theorem lengthByte_answers (P : Params) (v : Byte) {s : State} (hopen : s.lenCount < 2) :
    ∃ t, lengthByte P v s = .next t := by
  have hcount : s.lenCount = 0 ∨ s.lenCount = 1 := by bv_omega
  rcases hcount with hcount | hcount
  · exact ⟨_, lengthByte_first P v s hcount⟩
  · exact ⟨_, lengthByte_second P v s hcount⟩

/-- Below the parsed length `data_count` is an address of RXDATA (R156). -/
theorem payloadByte_answers (P : Params) (v : Byte) {s : State} (hopen : s.dataCount < s.rxLen) :
    ∃ t, payloadByte P v s = .next t := by
  have haddr : s.dataCount.toNat < Space.size P .rxData := by
    have hlt : s.dataCount.toNat < s.rxLen.toNat := hopen
    have hmax := s.rxLen.isLt
    simp only [Space.size, Config.rxCap]
    omega
  exact ⟨_, payloadByte_next.mpr ⟨haddr, rfl⟩⟩

/-- With fewer than two checksum bytes held there is room for the next (R163). -/
theorem checksumByte_answers (P : Params) (v : Byte) {s : State} (hopen : s.crcCount < 2) :
    ∃ t, checksumByte P v s = .next t := by
  have hcount : s.crcCount = 0 ∨ s.crcCount = 1 := by bv_omega
  rcases hcount with hcount | hcount
  · exact ⟨_, checksumByte_first P v s hcount⟩
  · rw [checksumByte_second P v s hcount]
    exact enterChecksumCheck_answers P _

/-- In a state of the invariant every event class has a rule that answers. -/
theorem State.Inv.transition_answers {P : Params} {s : State} (h : s.Inv P) (c : EventClass) :
    ∃ t, transition P c s = .next t := by
  have htransmit (hrole : s.state.role = .initiator) :
      s.pfValid = true ∧ s.pfLen.toNat ≤ P.maxTxLen.val := by
    have hv : s.pfValid = true := by simp [h.pending, hrole]
    exact ⟨hv, h.pending_le hv⟩
  cases hs : s.state
  case idle => rw [transition_idle P c s hs]; cases c <;> exact ⟨_, rfl⟩
  case bidWait => rw [transition_bidWait P c s hs]; cases c <;> exact ⟨_, rfl⟩
  case frameSync => rw [transition_frameSync P c s hs]; cases c <;> exact ⟨_, rfl⟩
  case frameStart => rw [transition_frameStart P c s hs]; cases c <;> exact ⟨_, rfl⟩
  case frameEndEscape => rw [transition_frameEndEscape P c s hs]; cases c <;> exact ⟨_, rfl⟩
  case frameEnd => rw [transition_frameEnd P c s hs]; cases c <;> exact ⟨_, rfl⟩
  case lengthField =>
    rw [transition_lengthField P c s hs]
    cases c
    case data v => exact lengthByte_answers P v (h.length_open hs)
    all_goals exact ⟨_, rfl⟩
  case payload =>
    rw [transition_payload P c s hs]
    cases c
    case data v => exact payloadByte_answers P v (h.payload_open hs)
    all_goals exact ⟨_, rfl⟩
  case checksum =>
    rw [transition_checksum P c s hs]
    cases c
    case data v => exact checksumByte_answers P v (h.checksum_open hs)
    all_goals exact ⟨_, rfl⟩
  case bidAckWait =>
    obtain ⟨hv, hlen⟩ := htransmit (by rw [hs]; rfl)
    rw [transition_bidAckWait P c s hs]
    cases c
    case lineErr | timeout => exact retry_answers _ hv hlen
    all_goals exact ⟨_, rfl⟩
  case bidAck =>
    obtain ⟨hv, hlen⟩ := htransmit (by rw [hs]; rfl)
    rw [transition_bidAck P c s hs]
    cases c
    case ack => exact enterTransmit_answers hv hlen
    case lineErr | timeout => exact retry_answers _ hv hlen
    all_goals exact ⟨_, rfl⟩
  case frameAckWait =>
    obtain ⟨hv, hlen⟩ := htransmit (by rw [hs]; rfl)
    rw [transition_frameAckWait P c s hs]
    cases c
    case lineErr | timeout => exact retry_answers _ hv hlen
    all_goals exact ⟨_, rfl⟩
  case frameAck =>
    obtain ⟨hv, hlen⟩ := htransmit (by rw [hs]; rfl)
    rw [transition_frameAck P c s hs]
    cases c
    case nak | lineErr | timeout => exact retry_answers _ hv hlen
    all_goals exact ⟨_, rfl⟩
  case checksumCheck | bidSend | transmit =>
    have hresting := h.resting
    rw [hs] at hresting
    cases hresting

/-- In a state of the invariant every event answers a next state of it. -/
theorem State.Inv.execWith_answers {P : Params} {s : State} (h : s.Inv P) (i : Instr) :
    ∃ t, execWith P i s = .next t ∧ t.Inv P := by
  suffices hnext : ∃ t, execWith P i s = .next t by
    obtain ⟨t, ht⟩ := hnext
    exact ⟨t, ht, h.after_execWith ht⟩
  cases i
  case timeout g =>
    simp only [execWith, timeoutWith]
    split
    · exact h.transition_answers _
    · exact ⟨_, rfl⟩
  case send p =>
    simp only [execWith, sendWith]
    split
    · exact ⟨_, rfl⟩
    · split <;> exact ⟨_, rfl⟩
  case reservedC | reservedD | reservedE | reservedF => exact ⟨_, rfl⟩
  all_goals exact h.transition_answers _

/-- The engine's move answers a next state of the invariant. -/
theorem State.Inv.takeWord_answers {P : Params} {s : State} (h : s.Inv P) :
    ∃ t, takeWord P (execWith P) s = .next t ∧ t.Inv P := by
  rcases takeWord_cases P (execWith P) s with
    ⟨hstays, -⟩ | ⟨q, rest, -, -, ⟨-, hraises⟩ | ⟨i, -, hruns⟩⟩
  · exact ⟨s, hstays, h⟩
  · exact ⟨_, hraises, h.withEnvironment ..⟩
  · rw [hruns]
    exact (h.withEnvironment s.fault rest s.effects s.sched).execWith_answers i

/-- The Deadline's move keeps the invariant: it fires only while armed (60_exceptions.md R238). -/
theorem State.Inv.after_fireDeadline {P : Params} {s : State} (h : s.Inv P) :
    (fireDeadline P s).Inv P := by
  unfold fireDeadline
  split
  · next henabled =>
    obtain ⟨harmed, -, -⟩ := (fireEnabled_iff s).mp henabled
    exact { h with fired := by simp [offerWord, harmed] }
  · exact h

/-- RESET gives the invariant from any state (70_reset_and_hazards.md R260). -/
theorem inv_assertReset (P : Params) (s : State) : (assertReset s).Inv P :=
  inv_idleEntry (s := assertReset s) (Nat.two_pow_pos _)

end Sys2Proof.Machine

namespace Sys2Proof.Proofs

open Sys2Proof Sys2Proof.Machine Sys2Proof.Statements

/-- Settles O46: each move of each agent answers, and keeps the invariant. -/
theorem invariantStatesAlwaysStep : Obligations.InvariantStatesAlwaysStep := by
  unfold Obligations.InvariantStatesAlwaysStep
  intro P s h
  have hsched (ms : List Move) : ({ s with sched := ms } : State).Inv P := h.withEnvironment ..
  unfold stepWith
  rcases stepBy_cases P (execWith P) s with ⟨-, htake⟩ | ⟨m, ms, -, ⟨-, htake⟩ | ⟨q, -, hoffer⟩ |
    ⟨-, hfire⟩ | ⟨-, hreset⟩⟩
  · exact htake ▸ h.takeWord_answers
  · exact htake ▸ (hsched ms).takeWord_answers
  · exact ⟨_, hoffer, (hsched ms).withEnvironment ..⟩
  · exact ⟨_, hfire, (hsched ms).after_fireDeadline⟩
  · exact ⟨_, hreset, inv_assertReset P _⟩

end Sys2Proof.Proofs

/-! ## The long buffers

What an event can write to `databuf` and to the pending payload, and that the canonical form of
20_memory.md R60 is kept. -/

namespace Sys2Proof.Machine

/-! ### The writers -/

/-- A transition rule keeps the receive buffer, or is Payload's and writes the event's byte at
`data_count` (41_responder.md R156). -/
theorem transition_databuf {P : Params} {c : EventClass} {s t : State}
    (h : transition P c s = .next t) :
    t.databuf = s.databuf ∨ ∃ v, c = .data v ∧ s.state = .payload ∧
      s.dataCount.toNat < Space.size P .rxData ∧
      t.databuf = Memory.write s.databuf s.dataCount.toNat v := by
  apply transition_next_induct (h := h)
  case stays => exact .inl rfl
  case enters => exact fun S _ _ _ _ _ _ _ _ _ => .inl (by simp)
  case bidden => exact fun _ _ => .inl (by simp)
  case acks | naks | rebids | aborts | idles | completes => exact fun _ => .inl (by simp)
  case transmits =>
    intro _ t ht
    obtain ⟨-, bs, -, rfl⟩ := enterTransmit_next.mp ht
    exact .inl (by simp)
  case retries =>
    intro _ _ a t ht
    rcases retry_next ht with ⟨c, u, rfl, -, rfl | ht⟩ | ⟨c, rfl⟩
    · exact .inl (by simp)
    · obtain ⟨-, bs, -, rfl⟩ := enterTransmit_next.mp ht
      exact .inl (by simp)
    · exact .inl (by simp)
  case lengths =>
    intro _ v t _ ht
    obtain ⟨lb, -, ⟨-, rfl⟩ | ⟨-, rfl⟩⟩ := lengthByte_next ht <;> exact .inl (by simp)
  case payloads =>
    intro hs v t hc ht
    obtain ⟨hlt, rfl⟩ := payloadByte_next.mp ht
    exact .inr ⟨v, hc, hs, hlt, by split <;> simp⟩
  case checks =>
    intro _ v t _ ht
    obtain ⟨cb, -, ⟨-, rfl⟩ | ⟨-, ht⟩⟩ := checksumByte_next ht
    · exact .inl rfl
    · obtain ⟨bs, -, rfl⟩ := enterChecksumCheck_next.mp ht
      exact .inl (by split <;> simp)

/-- The receive buffer's only writer is a data byte in Payload (20_memory.md R60). -/
theorem execWith_databuf {P : Params} {i : Instr} {s t : State} (h : execWith P i s = .next t) :
    t.databuf = s.databuf ∨ ∃ v, i = .dataByte v ∧ s.state = .payload ∧
      s.dataCount.toNat < Space.size P .rxData ∧
      t.databuf = Memory.write s.databuf s.dataCount.toNat v := by
  apply execWith_next_induct (h := h)
  case stays => exact .inl rfl
  case transits =>
    intro c t _ hdata _ _ _ ht
    exact (transition_databuf ht).imp_right fun ⟨v, hc, hwrites⟩ => ⟨v, hdata v hc, hwrites⟩
  case sends => exact fun _ _ _ _ => .inl (by simp)
  case faults => exact fun _ _ => .inl rfl

/-- The pending payload's only writer is `Send` in Idle, with a payload within `MAX_TX_LEN`
(10_state.md R32, 40_engine_core.md R122). -/
theorem execWith_pendingPayload {P : Params} {i : Instr} {s t : State}
    (h : execWith P i s = .next t) :
    (t.pfBytes = s.pfBytes ∧ t.pfLen = s.pfLen) ∨
      ∃ p, i = .send p ∧ s.state = .idle ∧ p.length ≤ P.maxTxLen.val ∧
        t.pfBytes = Memory.writeSeq s.pfBytes 0 p ∧ t.pfLen = BitVec.ofNat 16 p.length := by
  apply execWith_next_induct (h := h)
  case stays => exact .inl ⟨rfl, rfl⟩
  case transits =>
    intro c t _ _ _ _ _ ht
    obtain ⟨u, hu, hut⟩ := transition_entersOnce ht
    obtain ⟨hbytes, hlen, -⟩ := hut.pending
    exact .inl ⟨hbytes.trans hu.pfBytes, hlen.trans hu.pfLen⟩
  case sends => exact fun p hi hs hp => .inr ⟨p, hi, hs, hp, by simp, by simp⟩
  case faults => exact fun _ _ => .inl ⟨rfl, rfl⟩

/-! ### The canonical form -/

/-- An event keeps the buffers canonical: what it writes lies within the buffer's space. -/
theorem State.BuffersCanonical.after_execWith {P : Params} {i : Instr} {s t : State}
    (h : s.BuffersCanonical P) (ht : execWith P i s = .next t) : t.BuffersCanonical P := by
  obtain ⟨hdata_wf, hdata_within⟩ : Memory.wf t.databuf = true ∧
      Memory.WithinSize t.databuf (Space.size P .rxData) := by
    rcases execWith_databuf ht with hkept | ⟨v, -, -, hlt, hwritten⟩
    · exact hkept ▸ ⟨h.databuf_wf, h.databuf_within⟩
    · exact hwritten ▸ ⟨Memory.wf_write _ v h.databuf_wf, Memory.within_write v h.databuf_within hlt⟩
  obtain ⟨hpending_wf, hpending_within⟩ : Memory.wf t.pfBytes = true ∧
      Memory.WithinSize t.pfBytes (Space.size P .txp) := by
    rcases execWith_pendingPayload ht with ⟨hkept, -⟩ | ⟨p, -, -, hp, hwritten, -⟩
    · exact hkept ▸ ⟨h.pfBytes_wf, h.pfBytes_within⟩
    · exact hwritten ▸ ⟨Memory.wf_writeSeq p 0 h.pfBytes_wf,
        Memory.within_writeSeq p h.pfBytes_within (by simpa [Space.size] using hp)⟩
  exact ⟨hdata_wf, hdata_within, hpending_wf, hpending_within⟩

/-- The engine's move keeps the buffers canonical (40_engine_core.md R110). -/
theorem State.BuffersCanonical.after_takeWord {P : Params} {s t : State}
    (h : s.BuffersCanonical P) (ht : takeWord P (execWith P) s = .next t) :
    t.BuffersCanonical P := by
  rcases takeWord_cases P (execWith P) s with
    ⟨hstays, -⟩ | ⟨q, rest, -, -, ⟨-, hraises⟩ | ⟨i, -, hruns⟩⟩
  · cases hstays.symm.trans ht; exact h
  · cases hraises.symm.trans ht; exact { h with }
  · have hpopped : ({ s with fifo := rest } : State).BuffersCanonical P := { h with }
    exact hpopped.after_execWith (hruns.symm.trans ht)

/-- Every move keeps the buffers canonical; RESET leaves nothing listed (log entry 7). -/
theorem State.BuffersCanonical.after_stepWith {P : Params} {s t : State}
    (h : s.BuffersCanonical P) (ht : stepWith P s = .next t) : t.BuffersCanonical P := by
  have hsched (ms : List Move) : ({ s with sched := ms } : State).BuffersCanonical P := { h with }
  rcases stepBy_cases P (execWith P) s with ⟨-, htake⟩ | ⟨m, ms, -, ⟨-, htake⟩ | ⟨q, -, hoffer⟩ |
    ⟨-, hfire⟩ | ⟨-, hreset⟩⟩
  · exact h.after_takeWord (htake.symm.trans ht)
  · exact (hsched ms).after_takeWord (htake.symm.trans ht)
  · cases hoffer.symm.trans ht; exact { h with }
  · cases hfire.symm.trans ht
    constructor <;> simp [h.databuf_wf, h.databuf_within, h.pfBytes_wf, h.pfBytes_within]
  · cases hreset.symm.trans ht
    constructor <;> simp [State.reset, Memory.wf]

end Sys2Proof.Machine

namespace Sys2Proof.Proofs

open Sys2Proof Sys2Proof.Machine Sys2Proof.Statements

/-- Settles O41: the two writers of execWith_databuf and execWith_pendingPayload, read back. -/
theorem buffersChangeOnlyByTheirWriters : Obligations.BuffersChangeOnlyByTheirWriters := by
  unfold Obligations.BuffersChangeOnlyByTheirWriters
  intro P i s t h
  constructor
  · refine (execWith_databuf h).imp_right fun ⟨v, hi, hs, _, hwritten⟩ => ⟨v, hi, hs, fun x => ?_⟩
    rw [hwritten, Memory.read_write]
  · refine (execWith_pendingPayload h).imp_right
      fun ⟨p, hi, hs, hp, hbytes, hlen⟩ => ⟨p, hi, hs, fun x => ?_, ?_⟩
    · rw [hbytes, Memory.read_writeSeq, if_pos (Nat.zero_le x), Nat.sub_zero]
    · rw [hlen, BitVec.toNat_ofNat, Nat.mod_eq_of_lt (hp.trans_lt P.maxTxLen.isLt)]

/-- Settles O47, for the machine by its being the parametric one. -/
theorem stepKeepsBuffersCanonical : Obligations.StepKeepsBuffersCanonical := by
  unfold Obligations.StepKeepsBuffersCanonical
  refine ⟨?_, fun P s t h ht => h.after_stepWith ht⟩
  rw [step_eq]
  exact fun s t h ht => h.after_stepWith ht

end Sys2Proof.Proofs

/-! ## What no rule has written

States that differ only in contents no rule has written answer alike: every operation the rules share
reads nothing else (20_memory.md R62), so every move does. -/

namespace Sys2Proof.Machine

/-! ### The engine's move, case by case (40_engine_core.md R110) -/

theorem takeWord_stays {P : Params} {run : Instr → State → Result} {s : State}
    (h : s.fault ≠ 0 ∨ s.fifo = []) : takeWord P run s = .next s := by
  unfold takeWord
  rcases h with hfault | hfifo
  · rw [if_pos hfault]
  · rw [hfifo]; exact ite_self _

theorem takeWord_raises {P : Params} {run : Instr → State → Result} {s : State} {q : QueuedWord}
    {rest : List QueuedWord} (hfault : s.fault = 0) (hfifo : s.fifo = q :: rest)
    (hd : decodeQueued P.tagW q = .error .reservedBits) :
    takeWord P run s = .next (raiseFault .rsvBits { s with fifo := rest }) := by
  simp [takeWord, hfault, hfifo, hd]

theorem takeWord_runs {P : Params} {run : Instr → State → Result} {s : State} {q : QueuedWord}
    {rest : List QueuedWord} {i : Instr} (hfault : s.fault = 0) (hfifo : s.fifo = q :: rest)
    (hd : decodeQueued P.tagW q = .ok i) : takeWord P run s = run i { s with fifo := rest } := by
  simp [takeWord, hfault, hfifo, hd]

/-- A move keeps the invariant: it answers a state of it (O46). -/
theorem State.Inv.after_stepWith {P : Params} {s t : State} (h : s.Inv P)
    (ht : stepWith P s = .next t) : t.Inv P := by
  obtain ⟨u, hu, hinv⟩ := Proofs.invariantStatesAlwaysStep P s h
  cases hu.symm.trans ht
  exact hinv

/-- A read from address 0 depends on the bytes it reads alone (20_memory.md R60). -/
theorem memRead_congr {P : Params} {sp : Space} {m m' : Memory} {n : Nat}
    (h : ∀ k, k < n → Memory.read m' k = Memory.read m k) :
    memRead P sp m' n = memRead P sp m n := by
  have hbytes : Memory.readSeq m' 0 n = Memory.readSeq m 0 n := by
    obtain ⟨hlen, hget⟩ := Memory.readSeq_eq.mp (rfl : Memory.readSeq m 0 n = _)
    refine Memory.readSeq_eq.mpr ⟨hlen, fun k hk => ?_⟩
    rw [hget k hk, Nat.zero_add, h k hk]
  unfold memRead
  rw [hbytes]

end Sys2Proof.Machine

namespace Sys2Proof.Statements

open Sys2Proof.Machine

/-! ### What two such states agree on

`others` writes the second state as a record over the first, so whatever reads none of the replaced
fields has the same value in both. -/

namespace SameHeld

variable {P : Params} {s t : State}

theorem state_eq (h : SameHeld s t) : t.state = s.state := (congrArg State.state h.others :)

theorem fault_eq (h : SameHeld s t) : t.fault = s.fault := (congrArg State.fault h.others :)

theorem fifo_eq (h : SameHeld s t) : t.fifo = s.fifo := (congrArg State.fifo h.others :)

theorem sched_eq (h : SameHeld s t) : t.sched = s.sched := (congrArg State.sched h.others :)

theorem pfValid_eq (h : SameHeld s t) : t.pfValid = s.pfValid := (congrArg State.pfValid h.others :)

theorem lenCount_eq (h : SameHeld s t) : t.lenCount = s.lenCount :=
  (congrArg State.lenCount h.others :)

theorem dataCount_eq (h : SameHeld s t) : t.dataCount = s.dataCount :=
  (congrArg State.dataCount h.others :)

theorem crcCount_eq (h : SameHeld s t) : t.crcCount = s.crcCount :=
  (congrArg State.crcCount h.others :)

theorem counter_eq (h : SameHeld s t) (c : Counter) : c.read t = c.read s := by
  cases c
  · exact (congrArg State.c0 h.others :)
  · exact (congrArg State.c1 h.others :)

/-- The Deadline is the same, so the same `Timeout` is valid (40_engine_core.md R119). -/
theorem timeoutValid_eq (h : SameHeld s t) (g : Nat) : timeoutValid g t = timeoutValid g s :=
  (congrArg (timeoutValid g) h.others :)

/-! ### The operations -/

theorem after_emit (h : SameHeld s t) (e : Effect) : SameHeld (emit e s) (emit e t) :=
  { h with others := congrArg (emit e) h.others }

theorem after_raiseFault (h : SameHeld s t) (c : FaultCode) :
    SameHeld (raiseFault c s) (raiseFault c t) :=
  { h with others := congrArg (raiseFault c) h.others }

theorem after_offerWord (h : SameHeld s t) (q : QueuedWord) :
    SameHeld (offerWord q s) (offerWord q t) :=
  { h with others := congrArg (offerWord q) h.others }

theorem withFifo (h : SameHeld s t) (fifo : List QueuedWord) :
    SameHeld { s with fifo } { t with fifo } :=
  { h with others := congrArg (fun u : State => { u with fifo }) h.others }

theorem withSched (h : SameHeld s t) (sched : List Move) :
    SameHeld { s with sched } { t with sched } :=
  { h with others := congrArg (fun u : State => { u with sched }) h.others }

theorem after_counterWrite (h : SameHeld s t) (c : Counter) (v : BitVec 2) :
    SameHeld (c.write v s) (c.write v t) := by
  cases c
  · exact { h with others := congrArg (Counter.c0.write v) h.others }
  · exact { h with others := congrArg (Counter.c1.write v) h.others }

theorem after_fireDeadline (h : SameHeld s t) : SameHeld (fireDeadline P s) (fireDeadline P t) := by
  have henabled : fireEnabled t = fireEnabled s := (congrArg fireEnabled h.others :)
  unfold fireDeadline
  rw [henabled]
  split
  · have hword : timeoutWord P.tagW t.dlTag = timeoutWord P.tagW s.dlTag :=
      (congrArg (fun u : State => timeoutWord P.tagW u.dlTag) h.others :)
    have hfired : SameHeld { s with dlFired := true } { t with dlFired := true } :=
      { h with others := congrArg (fun u : State => { u with dlFired := true }) h.others }
    exact hword ▸ hfired.after_offerWord _
  · exact h

/-- After an entry to Idle nothing is held (40_engine_core.md R115). -/
theorem after_idleEntry (h : SameHeld s t) : SameHeld (idleEntry s) (idleEntry t) := by
  constructor
  case others => exact congrArg idleEntry h.others
  all_goals simp

/-- Clearing the counts leaves no byte of the receive path held (41_responder.md R148). -/
theorem after_assemblyReset (h : SameHeld s t) :
    SameHeld (assemblyReset s) (assemblyReset t) := by
  constructor
  case others => exact congrArg assemblyReset h.others
  case pending => exact h.pending
  all_goals simp

theorem after_deadlineEnter (h : SameHeld s t) (S : EngineState) :
    SameHeld (deadlineEnter P S s) (deadlineEnter P S t) := by
  have hothers := congrArg (deadlineEnter P S) h.others
  unfold deadlineEnter at hothers ⊢
  split
  · next harming => exact { h with others := by rwa [if_pos harming, if_pos harming] at hothers }
  · next harming => exact { h with others := by rwa [if_neg harming, if_neg harming] at hothers }

theorem after_enterResting (h : SameHeld s t) (S : EngineState) :
    SameHeld (enterResting P S s) (enterResting P S t) := by
  have hentered : SameHeld { s with state := S } { t with state := S } :=
    { h with others := congrArg (fun u : State => { u with state := S }) h.others }
  unfold enterResting
  split
  · exact (hentered.after_deadlineEnter S).after_assemblyReset
  · exact hentered.after_deadlineEnter S

theorem after_nakAndResync (h : SameHeld s t) : SameHeld (nakAndResync P s) (nakAndResync P t) :=
  (h.after_emit _).after_enterResting _

theorem after_enterBidSend (h : SameHeld s t) : SameHeld (enterBidSend P s) (enterBidSend P t) :=
  (h.after_emit _).after_enterResting _

theorem after_abortWithNak (h : SameHeld s t) : SameHeld (abortWithNak P s) (abortWithNak P t) := by
  unfold abortWithNak
  split
  · exact (h.after_emit _).after_idleEntry
  · exact h.after_idleEntry

/-- RESET gives every register the same value in both (70_reset_and_hazards.md R260). -/
theorem after_assertReset (h : SameHeld s t) : SameHeld (assertReset s) (assertReset t) := by
  have heq : assertReset t = assertReset s := (congrArg assertReset h.others :)
  rw [heq]
  exact ⟨rfl, by simp, by simp, by simp, by simp, by simp, by simp⟩

/-- `Send` writes every byte below the length it sets (40_engine_core.md R122). -/
theorem after_storePending (h : SameHeld s t) (p : Bytes) :
    SameHeld (storePending p s) (storePending p t) :=
  { h with
    others := congrArg (storePending p) h.others
    pending := fun _ => ⟨rfl, fun n hn => by
      have hlt : n < p.length := by
        simp only [storePending_pfLen, BitVec.toNat_ofNat] at hn
        exact hn.trans_le (Nat.mod_le ..)
      simp [Memory.read_writeSeq, hlt]⟩ }

end SameHeld

/-! ### Answering alike -/

/-- A next state is answered with one that holds the same. -/
def AnswersAlike (r r' : Result) : Prop :=
  ∀ s', r = .next s' → ∃ t', r' = .next t' ∧ SameHeld s' t'

theorem AnswersAlike.next {s t : State} (h : SameHeld s t) :
    AnswersAlike (.next s) (.next t) := by
  rintro _ ⟨⟩
  exact ⟨t, rfl, h⟩

namespace SameHeld

variable {P : Params} {s t : State}

/-! ### Entries that read a buffer -/

/-- Transmit reads the pending payload below its length (42_initiator.md R190). -/
theorem enterTransmit_alike (h : SameHeld s t) :
    AnswersAlike (enterTransmit P s) (enterTransmit P t) := by
  intro s' hs'
  obtain ⟨hvalid, bs, hread, rfl⟩ := enterTransmit_next.mp hs'
  obtain ⟨hlen, hbytes⟩ := h.pending hvalid
  refine ⟨_, enterTransmit_next.mpr ⟨h.pfValid_eq.trans hvalid, bs, ?_, rfl⟩,
    (h.after_emit _).after_enterResting _⟩
  rw [hlen, memRead_congr hbytes, hread]

/-- ChecksumCheck reads both two-byte buffers and the payload below its length, all of them held
(41_responder.md R166). -/
theorem enterChecksumCheck_alike (h : SameHeld s t) (hlen : s.lenCount = 2)
    (hdata : s.dataCount = s.rxLen) (hcrc : s.crcCount = 2) :
    AnswersAlike (enterChecksumCheck P s) (enterChecksumCheck P t) := by
  intro s' hs'
  obtain ⟨bs, hread, rfl⟩ := enterChecksumCheck_next.mp hs'
  obtain ⟨hlenbuf, hrxLen⟩ := h.len_low hlen
  have hread' : memRead P .rxData t.databuf t.rxLen.toNat = .ok bs := by
    rw [hrxLen, memRead_congr (hdata ▸ h.data), hread]
  refine ⟨_, enterChecksumCheck_next.mpr ⟨bs, hread', rfl⟩, ?_⟩
  rw [hlenbuf, h.crc_high hcrc]
  split
  · exact ((h.after_emit _).after_emit _).after_idleEntry
  · exact h.after_nakAndResync

/-- Entry to any state but ChecksumCheck, which alone reads the receive path (40_engine_core.md R113). -/
theorem enter_alike (h : SameHeld s t) (S : EngineState) (hS : S ≠ .checksumCheck) :
    AnswersAlike (enter P S s) (enter P S t) := by
  cases S
  case idle => exact .next h.after_idleEntry
  case bidSend => exact .next h.after_enterBidSend
  case transmit => exact h.enterTransmit_alike
  case checksumCheck => exact absurd rfl hS
  all_goals exact .next (h.after_enterResting _)

/-- The counters are the same, so both retry or both fail (R117). -/
theorem retry_alike (h : SameHeld s t) (a : RetryAction) :
    AnswersAlike (retry P a s) (retry P a t) := by
  rw [retry_eq, retry_eq, h.counter_eq]
  split
  · exact (h.after_counterWrite _ _).enter_alike _ (by cases a <;> decide)
  · exact .next ((h.after_counterWrite _ _).after_emit _).after_idleEntry

/-! ### Collected bytes -/

/-- The second length byte completes a length that is the same in both (41_responder.md R153). -/
theorem lengthByte_alike (h : SameHeld s t) (hopen : s.lenCount < 2) (v : Byte) :
    AnswersAlike (lengthByte P v s) (lengthByte P v t) := by
  have hcount : s.lenCount = 0 ∨ s.lenCount = 1 := by bv_omega
  rcases hcount with hcount | hcount
  · rw [lengthByte_first P v s hcount, lengthByte_first P v t (h.lenCount_eq.trans hcount)]
    exact .next
      { h with
        others := congrArg
          (fun u : State => { u with lenbuf := { t.lenbuf with at0 := v }, lenCount := 1 }) h.others
        len_high := fun _ => rfl
        len_low := by simp }
  · have hlenbuf : ({ t.lenbuf with at1 := v } : TwoBytes) = { s.lenbuf with at1 := v } :=
      congrArg (fun b => TwoBytes.mk b v) (h.len_high (by simp [hcount]))
    rw [lengthByte_second P v s hcount, lengthByte_second P v t (h.lenCount_eq.trans hcount),
      hlenbuf]
    refine .next (after_enterResting ?_ _)
    exact
      { h with
        others := congrArg (fun u : State =>
          { u with
            lenbuf := { s.lenbuf with at1 := v }
            lenCount := 2
            rxLen := ({ s.lenbuf with at1 := v } : TwoBytes).bigEndian }) h.others
        len_high := fun _ => rfl
        len_low := fun _ => ⟨rfl, rfl⟩ }

/-- A payload byte is written at the count, which then holds it; the parsed length is the same in both
(R156). -/
theorem payloadByte_alike (h : SameHeld s t) (hlen : s.lenCount = 2) (v : Byte) :
    AnswersAlike (payloadByte P v s) (payloadByte P v t) := by
  intro s' hs'
  obtain ⟨hlt, rfl⟩ := payloadByte_next.mp hs'
  obtain ⟨-, hrxLen⟩ := h.len_low hlen
  refine ⟨_, payloadByte_next.mpr ⟨h.dataCount_eq ▸ hlt, rfl⟩, ?_⟩
  have hlast : s.dataCount + 1 = t.rxLen ↔ s.dataCount + 1 = s.rxLen := by rw [hrxLen]
  simp only [h.dataCount_eq, hlast]
  have hwritten : SameHeld
      { s with databuf := Memory.write s.databuf s.dataCount.toNat v
               dataCount := s.dataCount + 1 }
      { t with databuf := Memory.write t.databuf s.dataCount.toNat v
               dataCount := s.dataCount + 1 } :=
    { h with
      others := congrArg (fun u : State =>
        { u with databuf := Memory.write t.databuf s.dataCount.toNat v
                 dataCount := s.dataCount + 1 }) h.others
      data := fun n hn => by
        rw [Memory.read_write, Memory.read_write]
        split
        · rfl
        · exact h.data n (by bv_omega) }
  split
  · exact hwritten.after_enterResting _
  · exact hwritten

/-- The second checksum byte completes a checksum that is the same in both (R163). -/
theorem checksumByte_alike (h : SameHeld s t) (hopen : s.crcCount < 2) (hlen : s.lenCount = 2)
    (hdata : s.dataCount = s.rxLen) (v : Byte) :
    AnswersAlike (checksumByte P v s) (checksumByte P v t) := by
  have hcount : s.crcCount = 0 ∨ s.crcCount = 1 := by bv_omega
  rcases hcount with hcount | hcount
  · rw [checksumByte_first P v s hcount, checksumByte_first P v t (h.crcCount_eq.trans hcount)]
    exact .next
      { h with
        others := congrArg
          (fun u : State => { u with crcbuf := { t.crcbuf with at0 := v }, crcCount := 1 }) h.others
        crc_low := fun _ => rfl
        crc_high := by simp }
  · have hcrcbuf : ({ t.crcbuf with at1 := v } : TwoBytes) = { s.crcbuf with at1 := v } :=
      congrArg (fun b => TwoBytes.mk b v) (h.crc_low (by simp [hcount]))
    rw [checksumByte_second P v s hcount, checksumByte_second P v t (h.crcCount_eq.trans hcount),
      hcrcbuf]
    refine enterChecksumCheck_alike ?_ hlen hdata rfl
    exact
      { h with
        others := congrArg (fun u : State =>
          { u with crcbuf := { s.crcbuf with at1 := v }, crcCount := 2 }) h.others
        crc_low := fun _ => rfl
        crc_high := fun _ => rfl }

/-! ### Events and moves -/

/-- Every rule of the matrix answers alike (43_event_instructions.md R222). -/
theorem transition_alike (h : SameHeld s t) (hinv : s.Inv P) (c : EventClass) :
    AnswersAlike (transition P c s) (transition P c t) := by
  have ht := h.state_eq
  cases hs : s.state <;> rw [hs] at ht
  case idle =>
    rw [transition_idle P c s hs, transition_idle P c t ht]
    cases c
    case escape => exact h.enter_alike .bidWait (by decide)
    case lineErr => exact .next h.after_abortWithNak
    all_goals exact .next h
  case bidWait =>
    rw [transition_bidWait P c s hs, transition_bidWait P c t ht]
    cases c
    case bidCode => exact (h.after_emit _).enter_alike .frameSync (by decide)
    case lineErr | timeout => exact .next h.after_abortWithNak
    all_goals exact .next h.after_idleEntry
  case frameSync =>
    rw [transition_frameSync P c s hs, transition_frameSync P c t ht]
    cases c
    case escape => exact h.enter_alike .frameStart (by decide)
    case lineErr => exact .next h.after_abortWithNak
    case timeout => exact .next h.after_idleEntry
    all_goals exact h.enter_alike .bidWait (by decide)
  case frameStart =>
    rw [transition_frameStart P c s hs, transition_frameStart P c t ht]
    cases c
    case escape => exact h.enter_alike .frameSync (by decide)
    case bidCode => exact (h.after_emit _).enter_alike .frameSync (by decide)
    case startMark => exact h.enter_alike .lengthField (by decide)
    all_goals exact .next h.after_nakAndResync
  case lengthField =>
    rw [transition_lengthField P c s hs, transition_lengthField P c t ht]
    cases c
    case data v => exact h.lengthByte_alike (hinv.length_open hs) v
    case lineErr | timeout => exact .next h.after_nakAndResync
    all_goals exact .next h
  case payload =>
    rw [transition_payload P c s hs, transition_payload P c t ht]
    cases c
    case data v => exact h.payloadByte_alike (hinv.length_held (.inl hs)) v
    case lineErr | timeout => exact .next h.after_nakAndResync
    all_goals exact .next h
  case frameEndEscape =>
    rw [transition_frameEndEscape P c s hs, transition_frameEndEscape P c t ht]
    cases c
    case escape => exact h.enter_alike .frameEnd (by decide)
    all_goals exact .next h.after_nakAndResync
  case frameEnd =>
    rw [transition_frameEnd P c s hs, transition_frameEnd P c t ht]
    cases c
    case endMark => exact h.enter_alike .checksum (by decide)
    all_goals exact .next h.after_nakAndResync
  case checksum =>
    rw [transition_checksum P c s hs, transition_checksum P c t ht]
    cases c
    case data v =>
      exact h.checksumByte_alike (hinv.checksum_open hs) (hinv.length_held (by simp [hs]))
        (hinv.data_held (by simp [hs])) v
    case lineErr | timeout => exact .next h.after_nakAndResync
    all_goals exact .next h
  case bidAckWait =>
    rw [transition_bidAckWait P c s hs, transition_bidAckWait P c t ht]
    cases c
    case escape => exact h.enter_alike .bidAck (by decide)
    case lineErr | timeout => exact h.retry_alike _
    all_goals exact .next h
  case bidAck =>
    rw [transition_bidAck P c s hs, transition_bidAck P c t ht]
    cases c
    case bidCode => exact h.enter_alike .bidSend (by decide)
    case ack => exact h.enter_alike .transmit (by decide)
    case lineErr | timeout => exact h.retry_alike _
    all_goals exact h.enter_alike .bidAckWait (by decide)
  case frameAckWait =>
    rw [transition_frameAckWait P c s hs, transition_frameAckWait P c t ht]
    cases c
    case escape => exact h.enter_alike .frameAck (by decide)
    case lineErr | timeout => exact h.retry_alike _
    all_goals exact .next h
  case frameAck =>
    rw [transition_frameAck P c s hs, transition_frameAck P c t ht]
    cases c
    case bidCode => exact .next h.after_idleEntry
    case ack => exact .next (h.after_emit _).after_idleEntry
    case nak | lineErr | timeout => exact h.retry_alike _
    all_goals exact h.enter_alike .frameAckWait (by decide)
  case checksumCheck | bidSend | transmit =>
    have hresting := hinv.resting
    rw [hs] at hresting
    cases hresting

/-- Every event answers alike. -/
theorem execWith_alike (h : SameHeld s t) (hinv : s.Inv P) (i : Instr) :
    AnswersAlike (execWith P i s) (execWith P i t) := by
  cases i
  case timeout g =>
    simp only [execWith, timeoutWith, h.timeoutValid_eq]
    split
    · exact h.transition_alike hinv _
    · exact .next h
  case send p =>
    simp only [execWith, sendWith, h.state_eq]
    split
    · exact .next (h.after_raiseFault _)
    · split
      · exact .next (h.after_raiseFault _)
      · exact (h.after_storePending p).enter_alike .bidSend (by decide)
  case reservedC | reservedD | reservedE | reservedF => exact .next (h.after_raiseFault _)
  all_goals exact h.transition_alike hinv _

/-- The engine's move answers alike: the path's head is the same word (40_engine_core.md R110). -/
theorem takeWord_alike (h : SameHeld s t) (hinv : s.Inv P) :
    AnswersAlike (takeWord P (execWith P) s) (takeWord P (execWith P) t) := by
  rcases takeWord_cases P (execWith P) s with
    ⟨hstays, hnone⟩ | ⟨q, rest, hfault, hfifo, ⟨hd, hraises⟩ | ⟨i, hd, hruns⟩⟩
  · rw [hstays, takeWord_stays (h.fault_eq ▸ h.fifo_eq ▸ hnone)]
    exact .next h
  · rw [hraises, takeWord_raises (h.fault_eq.trans hfault) (h.fifo_eq.trans hfifo) hd]
    exact .next ((h.withFifo rest).after_raiseFault _)
  · rw [hruns, takeWord_runs (h.fault_eq.trans hfault) (h.fifo_eq.trans hfifo) hd]
    exact (h.withFifo rest).execWith_alike (hinv.withEnvironment s.fault rest s.effects s.sched) i

/-- Every move answers alike: the agents' order is the same (log entry 11). -/
theorem stepWith_alike (h : SameHeld s t) (hinv : s.Inv P) :
    AnswersAlike (stepWith P s) (stepWith P t) := by
  unfold stepWith stepBy
  rw [h.sched_eq]
  split
  · exact h.takeWord_alike hinv
  · next ms _ =>
    exact (h.withSched ms).takeWord_alike (hinv.withEnvironment s.fault s.fifo s.effects ms)
  · next q ms _ => exact .next ((h.withSched ms).after_offerWord q)
  · next ms _ => exact .next (h.withSched ms).after_fireDeadline
  · next ms _ => exact .next (h.withSched ms).after_assertReset

/-- Any number of moves answers alike. -/
theorem runWith_alike (h : SameHeld s t) (hinv : s.Inv P) (n : Nat) :
    AnswersAlike (runWith P n s) (runWith P n t) := by
  induction n generalizing s t with
  | zero => exact .next h
  | succ n ih =>
    intro s' hs'
    obtain ⟨u, hu, hrest⟩ := runWith_succ_next.mp hs'
    obtain ⟨w, hw, huw⟩ := h.stepWith_alike hinv u hu
    obtain ⟨t', ht', hst'⟩ := ih huw (hinv.after_stepWith hu) s' hrest
    exact ⟨t', runWith_succ_next.mpr ⟨w, hw, ht'⟩, hst'⟩

end SameHeld

end Sys2Proof.Statements

namespace Sys2Proof.Proofs

open Sys2Proof Sys2Proof.Machine Sys2Proof.Statements

/-- Settles O60, by induction on the moves: from a state of the invariant each move reads only what the
two states agree on. -/
theorem noRunReadsWhatNoRuleWrote : Obligations.NoRunReadsWhatNoRuleWrote := by
  unfold Obligations.NoRunReadsWhatNoRuleWrote
  exact fun P n s t s' hinv h hs' => h.runWith_alike hinv n s' hs'

end Sys2Proof.Proofs

/-! ## The event word

Instructions and words by their fields: both directions of the round trip, the kinds of words and
the ignored fields follow (30_encoding.md R81 to R98). -/

namespace Sys2Proof

/-! ### The fields of an instruction -/

/-- The byte an instruction carries in its word: only `DataByte` has one (R81, R93). -/
def Instr.dataField : Instr → Byte
  | .dataByte v => v
  | _ => 0

/-- An instruction's word is the word of its fields (R81, R87). -/
theorem encodeWord_eq_assemble (tagW : Nat) (i : Instr) :
    encodeWord tagW i = EventWord.assemble (BitVec.ofNat tagW i.tag) i.dataField 0 i.code := by
  cases i <;> rfl

/-- An instruction is the event of its fields. -/
theorem eventOf_fields (i : Instr) : eventOf i.code i.dataField i.tag i.payload = i := by
  cases i <;> rfl

/-- The reserved rows are those of the codes from 0xC up (R92). -/
theorem eventOf_reservedRow (c : BitVec 4) (v : Byte) (t : Nat) (p : Bytes) :
    (eventOf c v t p).reservedRow = decide (0xC#4 ≤ c) := by
  have h : ∀ n : Fin 16, (eventOf (BitVec.ofFin n) v t p).reservedRow =
      decide (0xC#4 ≤ BitVec.ofFin n) := by
    intro n; fin_cases n <;> rfl
  exact h c.toFin

/-- The data field is read for code 4 only, the tag field for code 0xA only (R93). -/
theorem eventOf_congr {c : BitVec 4} {v v' : Byte} {t t' : Nat} (p : Bytes)
    (hdata : c = 4 → v = v') (htag : c = 10 → t = t') : eventOf c v t p = eventOf c v' t' p := by
  unfold eventOf
  split
  case h_5 hc => rw [hdata (BitVec.eq_of_toNat_eq hc)]
  case h_11 hc => rw [htag (BitVec.eq_of_toNat_eq hc)]
  all_goals rfl

/-! ### The decoder -/

/-- The word of an instruction decodes to it, if the tag field is wide enough for its tag. -/
theorem decode_encodeWord {tagW : Nat} {i : Instr} (htag : i.tag < 2 ^ tagW) :
    decode tagW (encodeWord tagW i) i.payload = .ok i := by
  rw [encodeWord_eq_assemble, decode_ok]
  refine ⟨.inr (EventWord.rsv_assemble ..), ?_⟩
  rw [EventWord.code_assemble, EventWord.data_assemble, EventWord.tag_assemble, BitVec.toNat_ofNat,
    Nat.mod_eq_of_lt htag, eventOf_fields]

/-- The same of the word as it stands on the path (log entry 4). -/
theorem decodeQueued_encode {tagW : Nat} {i : Instr} (htag : i.tag < 2 ^ tagW) :
    decodeQueued tagW (encode tagW i) = .ok i := by
  rw [decodeQueued, QueuedWord.bits_encode, encode_payload, decode_encodeWord htag]

/-- A code of R83 with a nonzero reserved nibble is refused (R92). -/
theorem decode_reservedBits {tagW : Nat} {w : EventWord tagW} (p : Bytes) (hcode : w.code < 0xC#4)
    (hrsv : w.rsv ≠ 0) : decode tagW w p = .error .reservedBits := by
  rw [decode, if_neg (BitVec.not_le.mpr hcode), if_pos hrsv]

/-- A word is decoded by its code, its reserved nibble and, where its code reads them, its data and
its tag (R93). -/
theorem decode_congr {tagW : Nat} {w w' : EventWord tagW} (p : Bytes) (hcode : w.code = w'.code)
    (hrsv : w.rsv = w'.rsv) (hdata : w.code = 4 → w.data = w'.data)
    (htag : w.code = 10 → w.tag = w'.tag) : decode tagW w p = decode tagW w' p := by
  have hevent : eventOf w.code w.data w.tag.toNat p = eventOf w'.code w'.data w'.tag.toNat p := by
    rw [← hcode]
    exact eventOf_congr p hdata fun h => congrArg BitVec.toNat (htag h)
  rw [decode, decode, hevent, hcode, hrsv]

/-- The code and the reserved nibble are the low 8 bits (R81). -/
theorem EventWord.code_rsv_of_low {tagW : Nat} {w w' : EventWord tagW}
    (h : w.extractLsb' 0 8 = w'.extractLsb' 0 8) : w.code = w'.code ∧ w.rsv = w'.rsv := by
  have hbit : ∀ k, k < 8 → w.getLsbD k = w'.getLsbD k := fun k hk => by
    simpa [hk] using congrArg (BitVec.getLsbD · k) h
  constructor
  · apply BitVec.eq_of_getLsbD_eq
    intro k hk
    simp [EventWord.code, hk, hbit k (by omega)]
  · apply BitVec.eq_of_getLsbD_eq
    intro k hk
    simp [EventWord.rsv, hk, hbit (4 + k) (by omega)]

end Sys2Proof

namespace Sys2Proof.Proofs

open Sys2Proof Sys2Proof.Machine Sys2Proof.Statements

/-- Settles O25: the fields of the assembled word are the instruction's. -/
theorem decodeEncodeRoundTrip : Obligations.DecodeEncodeRoundTrip := by
  unfold Obligations.DecodeEncodeRoundTrip
  intro tagW i h
  have htag : i.tag < 2 ^ tagW := by
    cases i
    case timeout t => exact h t rfl
    all_goals exact Nat.two_pow_pos tagW
  exact ⟨decode_encodeWord htag, (encodeWord tagW i).isLt, decodeQueued_encode htag⟩

/-- Settles O26: a decoded instruction is the event of the word's fields, and its word has them
again. -/
theorem encodeAgreesWithDecodedWord : Obligations.EncodeAgreesWithDecodedWord := by
  unfold Obligations.EncodeAgreesWithDecodedWord
  intro tagW w p i h
  obtain ⟨hrsv, rfl⟩ := decode_ok.mp h
  rw [encodeWord_eq_assemble]
  refine ⟨?code, fun hc => ?rsv, fun hc => ?data, fun hc => ?tag, fun hc => ?payload⟩
  case code => exact (EventWord.code_assemble ..).trans (eventOf_code ..)
  case rsv =>
    exact (EventWord.rsv_assemble ..).trans (hrsv.resolve_left (BitVec.not_le.mpr hc)).symm
  case data =>
    refine (EventWord.data_assemble ..).trans ?_
    rw [show w.code = 4 from hc]
    rfl
  case tag =>
    refine (EventWord.tag_assemble ..).trans ?_
    rw [show w.code = 10 from hc]
    exact (BitVec.ofNat_toNat ..).trans (BitVec.setWidth_eq _)
  case payload =>
    rw [show w.code = 11 from hc]
    rfl

/-- Settles O27: the code check and the reserved-bits check of the decoder. -/
theorem decodingIsTotal : Obligations.DecodingIsTotal := by
  unfold Obligations.DecodingIsTotal
  intro tagW w p
  refine ⟨fun ⟨hcode, hrsv⟩ => ?_, fun hcode => ?_,
    fun ⟨hcode, hrsv⟩ => decode_reservedBits p hcode hrsv⟩
  · refine ⟨_, decode_ok.mpr ⟨.inr hrsv, rfl⟩, ?_, eventOf_code ..⟩
    rw [eventOf_reservedRow]
    exact decide_eq_false (BitVec.not_le.mpr hcode)
  · refine ⟨_, decode_ok.mpr ⟨.inl hcode, rfl⟩, ?_, eventOf_code ..⟩
    rw [eventOf_reservedRow]
    exact decide_eq_true hcode

/-- Settles O28: the decoder reads no ignored field. -/
theorem ignoredFieldsHaveNoEffect : Obligations.IgnoredFieldsHaveNoEffect := by
  unfold Obligations.IgnoredFieldsHaveNoEffect
  intro tagW w w' p hlow hdata htag
  obtain ⟨hcode, hrsv⟩ := EventWord.code_rsv_of_low hlow
  exact decode_congr p hcode hrsv hdata htag

/-- Settles O29, by evaluating the decoder. -/
theorem wordsOfTheTableDecode : Obligations.WordsOfTheTableDecode := by
  unfold Obligations.WordsOfTheTableDecode
  exact ⟨rfl, rfl, rfl, rfl, rfl, rfl, rfl, rfl, rfl, rfl, rfl⟩

end Sys2Proof.Proofs

/-! ## Frames from the line

What the Translator and the engine make of the bytes of a frame, stage by stage: each stage is the
state it leads to, and the stages of a wire frame compose up to ChecksumCheck (30_encoding.md
R94). -/

namespace Sys2Proof.Machine

/-! ### The Translator's events (60_exceptions.md R247) -/

theorem translateByte_collecting (P : Params) (e : EscapeCode) (b : Byte) :
    translateByte P true e b = .dataByte b := rfl

theorem translateByte_escCode (P : Params) (e : EscapeCode) :
    translateByte P false e P.escCode = e.event := by
  simp [translateByte]

theorem translateByte_startCode {P : Params} (hP : CodesDistinct P) (e : EscapeCode) :
    translateByte P false e P.startCode = .frameStartMarker := by
  simp only [CodesDistinct, controlCodes, List.nodup_cons, List.mem_cons, not_or] at hP
  obtain ⟨⟨-, -, -, hesc, -⟩, ⟨-, -, hbid, -⟩, -⟩ := hP
  simp [translateByte, Ne.symm hesc, Ne.symm hbid]

theorem translateByte_endCode {P : Params} (hP : CodesDistinct P) (e : EscapeCode) :
    translateByte P false e P.endCode = .frameEndMarker := by
  simp only [CodesDistinct, controlCodes, List.nodup_cons, List.mem_cons, not_or] at hP
  obtain ⟨⟨-, -, -, -, hesc, -⟩, ⟨-, -, -, hbid, -⟩, -, -, ⟨hstart, -⟩, -⟩ := hP
  simp [translateByte, Ne.symm hesc, Ne.symm hbid, Ne.symm hstart]

/-- The three ESCAPE codes are one event class (30_encoding.md R84). -/
theorem execWith_escapeCode (P : Params) (e : EscapeCode) (s : State) :
    execWith P e.event s = transition P .escape s := by
  cases e <;> rfl

/-- The Translator offers no `Timeout`, no `Send` and no reserved word. -/
theorem translateArrival_offers (P : Params) (collecting : Bool) (a : LineArrival) :
    (translateArrival P collecting a).tag = 0 ∧
      (∀ p, translateArrival P collecting a ≠ .send p) ∧
      (translateArrival P collecting a).reservedRow = false := by
  obtain ⟨input, e⟩ := a
  cases input with
  | transportFault => exact ⟨rfl, (by rintro _ ⟨⟩), rfl⟩
  | byte b =>
    simp only [translateArrival, translateByte]
    repeat' split
    case isFalse.isTrue => cases e <;> exact ⟨rfl, (by rintro _ ⟨⟩), rfl⟩
    all_goals exact ⟨rfl, (by rintro _ ⟨⟩), rfl⟩

/-! ### Bytes received -/

/-- The block takes words and none is queued. -/
structure State.Listening (s : State) : Prop where
  fault : s.fault = 0
  fifo : s.fifo = []

/-- From `s` the bytes lead to `t` with every word consumed, whichever ESCAPE codes the Translator
gives, and a line that goes on is received from there. -/
structure Receives (P : Params) (bs : Bytes) (s t : State) : Prop where
  listening : t.Listening
  line : ∀ as rest : List LineArrival, as.map LineArrival.input = bs.map LineInput.byte →
    receiveLine P (as ++ rest) s = receiveLine P rest t

namespace Receives

variable {P : Params} {s t u : State}

theorem nil (hs : s.Listening) : Receives P [] s s where
  listening := hs
  line as rest h := by rw [List.map_eq_nil_iff.mp h, List.nil_append]

theorem append {bs bs' : Bytes} (h : Receives P bs s t) (h' : Receives P bs' t u) :
    Receives P (bs ++ bs') s u where
  listening := h'.listening
  line as rest hmap := by
    rw [List.map_append] at hmap
    obtain ⟨as₁, as₂, rfl, h₁, h₂⟩ := List.map_eq_append_iff.mp hmap
    rw [List.append_assoc, h.line _ _ h₁, h'.line _ _ h₂]

/-- All of a line received (R247). -/
theorem receiveLine_eq {bs : Bytes} (h : Receives P bs s t) {as : List LineArrival}
    (hmap : as.map LineArrival.input = bs.map LineInput.byte) : receiveLine P as s = .next t := by
  rw [← List.append_nil as, h.line as [] hmap, receiveLine, consumeQueued_nil P h.listening.fifo]

end Receives

/-- One arrival is the event the Translator gives for it, consumed before the next arrival. -/
theorem receiveLine_cons {P : Params} {a : LineArrival} {s t : State} (hs : s.Listening)
    (ht : t.Listening) (h : execWith P (translateArrival P s.collecting a) s = .next t)
    (as : List LineArrival) : receiveLine P (a :: as) s = receiveLine P as t := by
  have htag := (translateArrival_offers P s.collecting a).1
  have hd := decodeQueued_encode (tagW := P.tagW) (htag ▸ Nat.two_pow_pos P.tagW)
  have hword : consumeQueued P (translatorStep P a s) = .next t := by
    rw [← h]
    exact consumeQueued_offered hs.fault hs.fifo hd
  rw [receiveLine, consumeQueued_nil P hs.fifo]
  cases as <;> simp only [receiveLine, hword, consumeQueued_nil P ht.fifo]

/-- An arrival's event raises no fault and leaves the path (60_exceptions.md R233). -/
theorem State.Listening.after_arrival {P : Params} {a : LineArrival} {s t : State}
    (hs : s.Listening) (h : execWith P (translateArrival P s.collecting a) s = .next t) :
    t.Listening := by
  obtain ⟨-, hfifo, -, hfault⟩ := Proofs.faultRegisterIsSticky P _ s t h
  obtain ⟨-, hsend, hrow⟩ := translateArrival_offers P s.collecting a
  refine ⟨?_, hfifo.trans hs.fifo⟩
  by_contra hne
  rcases hfault (hs.fault ▸ hne) with ⟨p, hp⟩ | hr
  · exact hsend p hp
  · exact Bool.false_ne_true (hrow.symm.trans hr)

namespace Receives

variable {P : Params} {s t u : State}

/-- One byte is its event, if that is the same for each ESCAPE code. -/
theorem byte (hs : s.Listening) {b : Byte}
    (h : ∀ e, execWith P (translateByte P s.collecting e b) s = .next t) : Receives P [b] s t where
  listening := hs.after_arrival (a := ⟨.byte b, .frameStartEscape⟩) (h _)
  line as rest hmap := by
    obtain ⟨a, rfl, ha⟩ := List.map_eq_singleton_iff.mp hmap
    obtain ⟨input, e⟩ := a
    cases ha
    exact receiveLine_cons hs (hs.after_arrival (a := ⟨.byte b, e⟩) (h e)) (h e) rest

/-- In a collecting state a byte is data (R247). -/
theorem data (hs : s.Listening) (hc : s.collecting = true) {v : Byte}
    (h : transition P (.data v) s = .next t) : Receives P [v] s t :=
  .byte hs fun e => by rw [hc, translateByte_collecting]; exact h

theorem lengthByte (hs : s.Listening) (hstate : s.state = .lengthField) {v : Byte}
    (h : Machine.lengthByte P v s = .next t) : Receives P [v] s t :=
  .data hs (by simp [State.collecting, hstate, EngineState.collecting])
    ((transition_lengthField P _ s hstate).trans h)

theorem payloadByte (hs : s.Listening) (hstate : s.state = .payload) {v : Byte}
    (h : Machine.payloadByte P v s = .next t) : Receives P [v] s t :=
  .data hs (by simp [State.collecting, hstate, EngineState.collecting])
    ((transition_payload P _ s hstate).trans h)

theorem checksumByte (hs : s.Listening) (hstate : s.state = .checksum) {v : Byte}
    (h : Machine.checksumByte P v s = .next t) : Receives P [v] s t :=
  .data hs (by simp [State.collecting, hstate, EngineState.collecting])
    ((transition_checksum P _ s hstate).trans h)

theorem escape (hs : s.Listening) (hc : s.collecting = false)
    (h : transition P .escape s = .next t) : Receives P [P.escCode] s t :=
  .byte hs fun e => by rw [hc, translateByte_escCode, execWith_escapeCode, h]

theorem startMark (hP : CodesDistinct P) (hs : s.Listening) (hc : s.collecting = false)
    (h : transition P .startMark s = .next t) : Receives P [P.startCode] s t :=
  .byte hs fun e => by rw [hc, translateByte_startCode hP]; exact h

theorem endMark (hP : CodesDistinct P) (hs : s.Listening) (hc : s.collecting = false)
    (h : transition P .endMark s = .next t) : Receives P [P.endCode] s t :=
  .byte hs fun e => by rw [hc, translateByte_endCode hP]; exact h

/-! ### The stages of a frame (30_encoding.md R94) -/

/-- ESC and FRAME-START in FrameSync (41_responder.md R144, R149). -/
theorem frameStart (hP : CodesDistinct P) (hs : s.Listening) (hstate : s.state = .frameSync) :
    Receives P [P.escCode, P.startCode] s
      (enterResting P .lengthField (enterResting P .frameStart s)) := by
  have hesc : Receives P [P.escCode] s (enterResting P .frameStart s) :=
    .escape hs (by simp [State.collecting, hstate, EngineState.collecting])
      (transition_frameSync P _ s hstate)
  exact hesc.append (.startMark hP hesc.listening
    (by simp [State.collecting, EngineState.collecting]) (transition_frameStart P _ _ (by simp)))

/-- The two length bytes in LengthField (R153). -/
theorem lengthPrefix (hs : s.Listening) (hstate : s.state = .lengthField) (hcount : s.lenCount = 0)
    (lb : TwoBytes) :
    Receives P lb.bytes s (enterResting P
      (if lb.bigEndian = 0 then .frameEndEscape else .payload)
      { s with lenbuf := lb, lenCount := 2, rxLen := lb.bigEndian }) := by
  have hhigh : Receives P [lb.at0] s
      { s with lenbuf := { s.lenbuf with at0 := lb.at0 }, lenCount := 1 } :=
    .lengthByte hs hstate (lengthByte_first P _ s hcount)
  exact hhigh.append (.lengthByte hhigh.listening hstate (lengthByte_second P lb.at1 _ rfl))

/-- The payload's bytes that are still missing, in Payload (R156). -/
theorem payload {vs : Bytes} (hs : s.Listening) (hstate : s.state = .payload) (hne : vs ≠ [])
    (hcount : s.dataCount.toNat + vs.length = s.rxLen.toNat) :
    Receives P vs s (enterResting P .frameEndEscape
      { s with databuf := Memory.writeSeq s.databuf s.dataCount.toNat vs
               dataCount := s.rxLen }) := by
  induction vs generalizing s with
  | nil => exact absurd rfl hne
  | cons v vs ih =>
    rw [List.length_cons] at hcount
    have hlt := s.rxLen.isLt
    have hnext : (s.dataCount + 1).toNat = s.dataCount.toNat + 1 := by
      rw [BitVec.toNat_add]; exact Nat.mod_eq_of_lt (by simp; omega)
    have hbyte := payloadByte_next (P := P) (v := v).mpr
      ⟨show s.dataCount.toNat < 65535 by omega, rfl⟩
    cases vs with
    | nil =>
      have hlast : s.dataCount + 1 = s.rxLen := BitVec.eq_of_toNat_eq (hnext.trans hcount)
      rw [if_pos hlast, hlast] at hbyte
      exact .payloadByte hs hstate hbyte
    | cons w ws =>
      have hmore : s.dataCount + 1 ≠ s.rxLen := fun h => by
        rw [← h, hnext, List.length_cons] at hcount; omega
      rw [if_neg hmore] at hbyte
      have hfirst := Receives.payloadByte hs hstate hbyte
      have hrest := ih hfirst.listening hstate (List.cons_ne_nil w ws)
        (by rw [hnext, ← hcount]; omega)
      rw [hnext] at hrest
      exact hfirst.append hrest

/-- ESC and FRAME-END after the payload (R159, R161). -/
theorem frameEnd (hP : CodesDistinct P) (hs : s.Listening) (hstate : s.state = .frameEndEscape) :
    Receives P (endSeq P) s (enterResting P .checksum (enterResting P .frameEnd s)) := by
  have hesc : Receives P [P.escCode] s (enterResting P .frameEnd s) :=
    .escape hs (by simp [State.collecting, hstate, EngineState.collecting])
      (transition_frameEndEscape P _ s hstate)
  exact hesc.append (.endMark hP hesc.listening (by simp [State.collecting, EngineState.collecting])
    (transition_frameEnd P _ _ (by simp)))

/-- The received checksum in Checksum: whatever ChecksumCheck answers (R163, R166). -/
theorem checksum (hs : s.Listening) (hstate : s.state = .checksum) (hcount : s.crcCount = 0)
    {cb : TwoBytes} (h : enterChecksumCheck P { s with crcbuf := cb, crcCount := 2 } = .next t) :
    Receives P cb.bytes s t := by
  have hlow : Receives P [cb.at0] s
      { s with crcbuf := { s.crcbuf with at0 := cb.at0 }, crcCount := 1 } :=
    .checksumByte hs hstate (checksumByte_first P _ s hcount)
  exact hlow.append
    (.checksumByte hlow.listening hstate ((checksumByte_second P cb.at1 _ rfl).trans h))

end Receives

/-! ### A whole frame -/

/-- The value of the length bytes is the payload's length (20_memory.md R63). -/
theorem lengthPrefix_bigEndian {p : Bytes} (hp : p.length ≤ Config.rxCap) :
    (lengthPrefix p).bigEndian.toNat = p.length := by
  rw [TwoBytes.bigEndian_toNat]
  simp only [lengthPrefix, BitVec.extractLsb'_toNat, BitVec.toNat_ofNat, Nat.shiftRight_eq_div_pow]
  have : p.length ≤ 65535 := hp
  omega

/-- The checksum bytes are the checksum (R64). -/
theorem checksumBytes_littleEndian (k : Half) : (checksumBytes k).littleEndian = k := by
  apply BitVec.eq_of_toNat_eq
  rw [TwoBytes.littleEndian_toNat]
  simp only [checksumBytes, BitVec.extractLsb'_toNat, Nat.shiftRight_eq_div_pow]
  have := k.isLt
  omega

/-- The frame of `p` is held up to its end escape, nothing emitted since `s`. -/
structure HoldsPayload (P : Params) (p : Bytes) (s u : State) : Prop where
  state : u.state = .frameEndEscape
  lenbuf : u.lenbuf = lengthPrefix p
  payload : memRead P .rxData u.databuf u.rxLen.toNat = .ok p
  crcCount : u.crcCount = s.crcCount
  effects : u.effects = s.effects

/-- The length bytes and the payload, an empty one too, in LengthField (41_responder.md R153,
R156). -/
theorem receives_lengthAndPayload {P : Params} {s : State} {p : Bytes} (hs : s.Listening)
    (hstate : s.state = .lengthField) (hlen : s.lenCount = 0) (hdata : s.dataCount = 0)
    (hp : p.length ≤ Config.rxCap) :
    ∃ u, Receives P ((lengthPrefix p).bytes ++ p) s u ∧ HoldsPayload P p s u := by
  have hprefix := Receives.lengthPrefix (P := P) hs hstate hlen (lengthPrefix p)
  have hbig := lengthPrefix_bigEndian hp
  cases p with
  | nil =>
    have hzero : (lengthPrefix []).bigEndian = 0 := BitVec.eq_of_toNat_eq hbig
    rw [if_pos hzero] at hprefix
    exact ⟨_, hprefix.append (.nil hprefix.listening), by simp, by simp,
      (by simp [hzero]; rfl), by simp, by simp⟩
  | cons v vs =>
    have hpos : (lengthPrefix (v :: vs)).bigEndian ≠ 0 := fun h => by simp [h] at hbig
    rw [if_neg hpos] at hprefix
    have hbytes := Receives.payload (P := P) hprefix.listening (by simp) (List.cons_ne_nil v vs)
      (by simp [hbig, hdata])
    refine ⟨_, hprefix.append hbytes, by simp, by simp, ?_, by simp, by simp⟩
    simpa [hbig, hdata] using memRead_writeSeq (sp := .rxData) s.databuf (v :: vs) hp

/-- What ChecksumCheck compares for the frame of `p` with the checksum `k`, nothing emitted since
`s`. -/
structure HoldsFrame (P : Params) (p : Bytes) (k : Half) (s u : State) : Prop where
  lenbuf : u.lenbuf = lengthPrefix p
  payload : memRead P .rxData u.databuf u.rxLen.toNat = .ok p
  crcbuf : u.crcbuf = checksumBytes k
  effects : u.effects = s.effects

/-- A wire frame in FrameSync leads to what ChecksumCheck answers on it (30_encoding.md R94). -/
theorem receives_wireFrame {P : Params} {s : State} {p : Bytes} (hP : CodesDistinct P)
    (hs : s.Listening) (hstate : s.state = .frameSync) (hp : p.length ≤ Config.rxCap) (k : Half) :
    ∃ u, HoldsFrame P p k s u ∧
      ∀ t, enterChecksumCheck P u = .next t → Receives P (wireFrame P p k) s t := by
  have hstart := Receives.frameStart hP hs hstate
  obtain ⟨v, hpayload, hv⟩ :=
    receives_lengthAndPayload (P := P) hstart.listening (by simp) (by simp) (by simp) hp
  have hend := Receives.frameEnd hP hpayload.listening hv.state
  refine ⟨{ enterResting P .checksum (enterResting P .frameEnd v) with
    crcbuf := checksumBytes k, crcCount := 2 }, ?_, fun t ht => ?_⟩
  · exact ⟨by simp [hv.lenbuf], by simp [hv.payload], rfl, by simp [hv.effects]⟩
  · have hcrc := Receives.checksum hend.listening (by simp) (by simp [hv.crcCount]) ht
    simpa [wireFrame] using ((hstart.append hpayload).append hend).append hcrc

/-- ChecksumCheck on a held frame: the acknowledge and the frame on a match, a nak otherwise
(41_responder.md R166). -/
theorem HoldsFrame.enterChecksumCheck_eq {P : Params} {p : Bytes} {k : Half} {s u : State}
    (h : HoldsFrame P p k s u) :
    enterChecksumCheck P u = .next (if frameChecksum P p = k then
      idleEntry (emit (.frame p) (emit (.sendBytes (ackSeq P)) u)) else nakAndResync P u) := by
  refine enterChecksumCheck_next.mpr ⟨p, h.payload, ?_⟩
  rw [h.lenbuf, h.crcbuf, checksumBytes_littleEndian]
  rfl

end Sys2Proof.Machine

namespace Sys2Proof.Proofs

open Sys2Proof Sys2Proof.Machine Sys2Proof.Statements

/-- Settles O50: the frame's stages lead to ChecksumCheck, where its own checksum matches. -/
theorem validFrameIsAckedAndDelivered : Obligations.ValidFrameIsAckedAndDelivered := by
  unfold Obligations.ValidFrameIsAckedAndDelivered
  intro P s p as hP hstate hfault hfifo hp hmap
  obtain ⟨u, hu, hframe⟩ := receives_wireFrame hP ⟨hfault, hfifo⟩ hstate hp (frameChecksum P p)
  have hreceived := hframe _ hu.enterChecksumCheck_eq
  rw [if_pos rfl] at hreceived
  obtain ⟨hfault', hfifo'⟩ := hreceived.listening
  refine ⟨_, hreceived.receiveLine_eq hmap, rfl, hfault', hfifo', ?_⟩
  simp [hu.effects, ackSeq]

end Sys2Proof.Proofs

/-! ## The effects of an event

What an event can emit, said once over all its answers (30_encoding.md R96, 40_engine_core.md
R127). -/

namespace Sys2Proof.Machine

/-- What an event can emit on the way from `s` to `t`: nothing, bytes, the acknowledge and the frame
of a checksum match, or a status on the initiator's entry to Idle. -/
inductive StepEmits (P : Params) (s t : State) : Prop
  | nothing (heff : t.effects = s.effects)
  | bytes (bs : Bytes) (heff : t.effects = s.effects ++ [.sendBytes bs])
  | delivery (p : Bytes) (heff : t.effects = s.effects ++ [.sendBytes (ackSeq P), .frame p])
      (hfrom : s.state = .checksum) (hto : t.state = .idle)
  | status (o : TxOutcome) (heff : t.effects = s.effects ++ [.status o])
      (hfrom : s.state.role = .initiator) (hto : t.state = .idle)

/-- Transmit emits the pending payload (42_initiator.md R190). -/
theorem enterTransmit_emits {P : Params} {s t : State} (h : enterTransmit P s = .next t) :
    ∃ bs, t.effects = s.effects ++ [.sendBytes bs] := by
  obtain ⟨-, bs, -, rfl⟩ := enterTransmit_next.mp h
  exact ⟨bs, by simp⟩

/-- A bounded retry re-sends its bytes or emits the failure status (40_engine_core.md R117). -/
theorem retry_emits {P : Params} {a : RetryAction} {s t : State} (hs : s.state.role = .initiator)
    (h : retry P a s = .next t) : StepEmits P s t := by
  rcases retry_next h with ⟨c, u, rfl, -, rfl | ht⟩ | ⟨c, rfl⟩
  · exact .bytes (bidSeq P) (by simp)
  · obtain ⟨bs, hbs⟩ := enterTransmit_emits ht
    exact .bytes bs (by simpa using hbs)
  · exact .status .transmissionFailure (by simp) hs rfl

/-- ChecksumCheck emits the acknowledge and the frame, or a nak (41_responder.md R166). -/
theorem enterChecksumCheck_emits {P : Params} {s u t : State} (hs : s.state = .checksum)
    (hu : u.effects = s.effects) (h : enterChecksumCheck P u = .next t) : StepEmits P s t := by
  obtain ⟨p, -, rfl⟩ := enterChecksumCheck_next.mp h
  split
  · exact .delivery p (by simp [hu]) hs rfl
  · exact .bytes (nakSeq P) (by simp [hu])

/-- What a transition rule can emit, over the whole matrix (43_event_instructions.md R222). -/
theorem transition_emits {P : Params} {c : EventClass} {s t : State}
    (h : transition P c s = .next t) : StepEmits P s t := by
  apply transition_next_induct (h := h)
  case stays => exact .nothing rfl
  case enters => exact fun S _ _ _ _ _ _ _ _ _ => .nothing (by simp)
  case bidden => exact fun _ _ => .nothing (by simp)
  case acks => exact fun _ => .bytes (ackSeq P) (by simp)
  case naks => exact fun _ => .bytes (nakSeq P) (by simp)
  case idles => exact fun _ => .nothing rfl
  case aborts =>
    intro _
    by_cases hnak : P.abortSendsNak = true
    · exact .bytes (nakSeq P) (by simp [hnak])
    · exact .nothing (by simp [hnak])
  case completes => exact fun hs => .status .transmissionComplete rfl (by rw [hs]; rfl) rfl
  case rebids => exact fun _ => .bytes (bidSeq P) (by simp)
  case transmits =>
    intro _ t ht
    obtain ⟨bs, hbs⟩ := enterTransmit_emits ht
    exact .bytes bs hbs
  case retries => exact fun hs _ a t ht => retry_emits hs ht
  case lengths =>
    intro _ v t _ ht
    obtain ⟨lb, -, ⟨-, rfl⟩ | ⟨-, rfl⟩⟩ := lengthByte_next ht <;> exact .nothing (by simp)
  case payloads =>
    intro _ v t _ ht
    obtain ⟨-, rfl⟩ := payloadByte_next.mp ht
    split <;> exact .nothing (by simp)
  case checks =>
    intro hs v t _ ht
    obtain ⟨cb, -, ⟨-, rfl⟩ | ⟨-, ht⟩⟩ := checksumByte_next ht
    · exact .nothing rfl
    · exact enterChecksumCheck_emits hs (by rfl) ht

/-- What an event can emit: `Send` its bid, a model fault nothing (60_exceptions.md R233). -/
theorem execWith_emits {P : Params} {i : Instr} {s t : State} (h : execWith P i s = .next t) :
    StepEmits P s t := by
  apply execWith_next_induct (h := h)
  case stays => exact .nothing rfl
  case transits => exact fun c t _ _ _ _ _ ht => transition_emits ht
  case sends => exact fun p _ _ _ => .bytes (bidSeq P) (by simp)
  case faults => exact fun c _ => .nothing rfl

/-! ## Reserved words and state codes

The model faults that a word of the path raises, and the table of the state codes (30_encoding.md
R88, R92). -/

/-! ### Reserved words -/

/-- The engine's move, in either of its forms, takes a word (40_engine_core.md R110; log entry
11). -/
theorem stepWith_takes {P : Params} {s : State} {ms : List Move}
    (h : (s.sched = [] ∧ ms = []) ∨ s.sched = .deliver :: ms) :
    stepWith P s = takeWord P (execWith P) { s with sched := ms } := by
  rcases h with ⟨hsched, rfl⟩ | hsched
  · simp only [stepWith, stepBy, hsched]
    rw [← hsched]
  · simp only [stepWith, stepBy, hsched]

/-- A reserved row raises `F_RSV_CODE` and changes nothing else (30_encoding.md R92). -/
theorem execWith_reservedRow {P : Params} {i : Instr} (hi : i.reservedRow = true) (s : State) :
    execWith P i s = .next (raiseFault .rsvCode s) := by
  cases i
  case reservedC | reservedD | reservedE | reservedF => rfl
  all_goals cases hi

/-- A word with a reserved code raises `F_RSV_CODE`, one of another code with a nonzero reserved
nibble `F_RSV_BITS` (R92, 60_exceptions.md R235). -/
theorem takeWord_reservedWord {P : Params} {s : State} {w : EventWord P.tagW} {p : Bytes}
    {rest : List QueuedWord} (hfault : s.fault = 0) (hfifo : s.fifo = ⟨w.toNat, p⟩ :: rest) :
    (0xC#4 ≤ w.code → takeWord P (execWith P) s =
      .next (raiseFault .rsvCode { s with fifo := rest })) ∧
    (w.code < 0xC#4 → w.rsv ≠ 0 → takeWord P (execWith P) s =
      .next (raiseFault .rsvBits { s with fifo := rest })) := by
  have hword : decodeQueued P.tagW ⟨w.toNat, p⟩ = decode P.tagW w p := by
    rw [decodeQueued, QueuedWord.bits_toNat]
  constructor
  · intro hcode
    have hd := decode_ok (p := p).mpr ⟨.inl hcode, rfl⟩
    rw [takeWord_runs hfault hfifo (hword.trans hd)]
    exact execWith_reservedRow (by rw [eventOf_reservedRow]; exact decide_eq_true hcode) _
  · intro hcode hrsv
    exact takeWord_raises hfault hfifo (hword.trans (decode_reservedBits p hcode hrsv))

/-! ### The state codes -/

/-- The 16 states, in the order of their codes (30_encoding.md R88). -/
def EngineState.all : List EngineState :=
  [.idle, .bidWait, .frameSync, .frameStart, .lengthField, .payload, .frameEndEscape, .frameEnd,
    .checksum, .checksumCheck, .bidSend, .bidAckWait, .bidAck, .transmit, .frameAckWait, .frameAck]

theorem EngineState.mem_all (S : EngineState) : S ∈ EngineState.all := by
  cases S <;> decide

/-- No two states have the same code. -/
theorem EngineState.code_injective : Function.Injective EngineState.code := fun S S' h =>
  List.inj_on_of_nodup_map (show (EngineState.all.map EngineState.code).Nodup by decide)
    S.mem_all S'.mem_all h

end Sys2Proof.Machine

namespace Sys2Proof.Proofs

open Sys2Proof Sys2Proof.Machine Sys2Proof.Statements

/-- Settles O39: the four kinds of emission, and a frame or a status stands in one of them only. -/
theorem effectsOfOneStep : Obligations.EffectsOfOneStep := by
  unfold Obligations.EffectsOfOneStep
  intro P i s t h
  cases execWith_emits h with
  | nothing heff => exact ⟨[], by simp [heff]⟩
  | bytes bs heff => exact ⟨_, heff, by simp⟩
  | delivery p heff hfrom hto =>
    refine ⟨_, heff, .inr ⟨p, rfl⟩, fun p' hp' => ?_, by simp⟩
    obtain rfl : p' = p := by simpa using hp'
    exact ⟨rfl, hfrom, hto⟩
  | status o heff hfrom hto => exact ⟨_, heff, by simp, by simp, fun _ _ => ⟨hfrom, hto⟩⟩

/-- Settles O22: a reserved code's meaning is its fault. -/
theorem reservedCodesRaiseTheirFault : Obligations.ReservedCodesRaiseTheirFault := by
  unfold Obligations.ReservedCodesRaiseTheirFault
  have hrow : ∀ i ∈ [Instr.reservedC, .reservedD, .reservedE, .reservedF],
      i.reservedRow = true := by decide
  refine ⟨?_, fun P s i hi => execWith_reservedRow (hrow i hi) s⟩
  rw [exec_eq]
  exact fun s i hi => execWith_reservedRow (hrow i hi) s

/-- The engine's move on a reserved word, under any parameters: the word is taken and raises its
fault (60_exceptions.md R235; log entry 10). -/
theorem stepWith_reservedWord {P : Params} {s : State} {w : EventWord P.tagW} {p : Bytes}
    {rest : List QueuedWord} {ms : List Move}
    (hsched : (s.sched = [] ∧ ms = []) ∨ s.sched = .deliver :: ms) (hfault : s.fault = 0)
    (hfifo : s.fifo = ⟨w.toNat, p⟩ :: rest) :
    (0xC#4 ≤ w.code →
      stepWith P s = .next { s with fifo := rest, sched := ms, fault := 0b0010#4 }) ∧
    (w.code < 0xC#4 → w.rsv ≠ 0 →
      stepWith P s = .next { s with fifo := rest, sched := ms, fault := 0b0100#4 }) := by
  have htake := takeWord_reservedWord (s := { s with sched := ms }) hfault hfifo
  rw [stepWith_takes hsched]
  simpa [raiseFault, hfault, FaultCode.mask] using htake

/-- Settles O23, for the machine by its being the parametric one. -/
theorem reservedWordsRaiseOneFault : Obligations.ReservedWordsRaiseOneFault := by
  unfold Obligations.ReservedWordsRaiseOneFault
  refine ⟨?_, fun P s w p rest ms => stepWith_reservedWord⟩
  rw [step_eq]
  exact fun s w p rest ms => stepWith_reservedWord

/-- An ESCAPE event is the transition of its class (30_encoding.md R84). -/
theorem execWith_of_mem_escapes {P : Params} {i : Instr} {s : State} (hi : i ∈ escapes) :
    execWith P i s = transition P .escape s := by
  have hclass : ∀ j ∈ escapes, execWith P j s = transition P .escape s := by
    simp only [escapes, List.forall_mem_cons]
    exact ⟨rfl, rfl, rfl, by simp⟩
  exact hclass i hi

/-- Settles O24: each ESCAPE event is the transition of its class. -/
theorem escapeEventsAreOneClass : Obligations.EscapeEventsAreOneClass := by
  unfold Obligations.EscapeEventsAreOneClass
  intro P s i hi j hj
  rw [execWith_of_mem_escapes hi, execWith_of_mem_escapes hj]

/-- Settles O30: the tables, state by state. -/
theorem statusOutputsFollowTheState : Obligations.StatusOutputsFollowTheState := by
  unfold Obligations.StatusOutputsFollowTheState
  refine ⟨rfl, fun S S' h => EngineState.code_injective h, fun S => ?_,
    fun s => ⟨rfl, ?_, ?_, ?_, ?_⟩⟩
  · cases S <;> decide
  · rw [State.roleOut, State.stateOut]
    cases s.state <;> rfl
  · rw [State.collecting]
    cases s.state <;> decide
  · simp [State.sendReady]
  · simp [State.faulted]

end Sys2Proof.Proofs

/-! ## The answers as whole states

The entries of the rules are the whole states of the statements (40_engine_core.md R113, R115, R121), and
a statement under every choice of the parameters holds of the machine. -/

namespace Sys2Proof.Statements

open Sys2Proof.Machine

/-- What holds under every choice of the parameters holds of the machine's dispatch (00_scope.md R6). -/
theorem EveryInstance.of_forall {row : Params → (Instr → State → Result) → Prop}
    (h : ∀ P, row P (execWith P)) : EveryInstance row := by
  refine ⟨?_, h⟩
  rw [exec_eq]
  exact h Config.params

/-- The same with the machine's step. -/
theorem EveryMachine.of_forall
    {row : Params → (Instr → State → Result) → (State → Result) → Prop}
    (h : ∀ P, row P (execWith P) (stepWith P)) : EveryMachine row := by
  refine ⟨?_, h⟩
  rw [exec_eq, step_eq]
  exact h Config.params

/-- The arming states are those of the list of R116. -/
theorem armsIn_eq_arming (P : Params) (S : EngineState) : armsIn P S = arming P S := by
  cases S <;> cases hP : P.armAllWaitStates <;> simp [armsIn, arming, hP]

/-- An entry to a resting state after the effects `es` (R113, R118, 41_responder.md R148). -/
theorem enterResting_withEffects (P : Params) (S : EngineState) (es : List Effect) (s : State) :
    enterResting P S { s with effects := s.effects ++ es } = entered P S es s := by
  unfold enterResting deadlineEnter entered
  rw [armsIn_eq_arming]
  by_cases hS : S = .frameStart <;> cases arming P S <;> simp [hS, assemblyReset]

/-- The same with nothing emitted. -/
theorem enterResting_eq_entered (P : Params) (S : EngineState) (s : State) :
    enterResting P S s = entered P S [] s := by
  simpa using enterResting_withEffects P S [] s

/-- The same after one effect. -/
theorem enterResting_emit_eq_entered (P : Params) (S : EngineState) (e : Effect) (s : State) :
    enterResting P S (emit e s) = entered P S [e] s :=
  enterResting_withEffects P S [e] s

/-- BidSend is left for BidAckWait, the bid sequence emitted (42_initiator.md R182). -/
theorem enterBidSend_eq_entered (P : Params) (s : State) :
    enterBidSend P s = entered P .bidAckWait [.sendBytes [P.escCode, P.bidCode]] s :=
  enterResting_emit_eq_entered P .bidAckWait _ s

/-- An entry to Idle with nothing emitted (40_engine_core.md R115). -/
theorem idleEntry_eq_idled (s : State) : idleEntry s = idled [] s := by
  simp [idleEntry, idled]

/-- An entry to Idle after one effect. -/
theorem idleEntry_emit_eq_idled (e : Effect) (s : State) : idleEntry (emit e s) = idled [e] s := rfl

/-- abort-with-nak under either value of `ABORT_SENDS_NAK` (R121). -/
theorem abortWithNak_eq_aborted (P : Params) (s : State) : abortWithNak P s = aborted P s := by
  unfold abortWithNak aborted
  cases P.abortSendsNak
  · exact idleEntry_eq_idled s
  · exact idleEntry_emit_eq_idled _ s

end Sys2Proof.Statements

/-! ## The host's events

`Timeout` and `Send` by the branches of their rules (43_event_instructions.md R220, R221). -/

namespace Sys2Proof.Machine

open Sys2Proof.Statements

/-- A stale `Timeout` is stopped by the check of R119, in every state. -/
theorem execWith_timeout_stale {P : Params} {t : Nat} {s : State} (h : ¬ ValidTimeout t s) :
    execWith P (.timeout t) s = .next s :=
  if_neg (mt (timeoutValid_iff t s).mp h)

theorem execWith_send_notIdle {P : Params} {s : State} (h : s.state ≠ .idle) (p : Bytes) :
    execWith P (.send p) s = .next (raiseFault .sendNotIdle s) := if_pos h

theorem execWith_send_tooLong {P : Params} {p : Bytes} {s : State} (h : s.state = .idle)
    (hp : P.maxTxLen.val < p.length) :
    execWith P (.send p) s = .next (raiseFault .txTooLong s) :=
  (if_neg (not_not.mpr h)).trans (if_pos hp)

theorem execWith_send_idle {P : Params} {p : Bytes} {s : State} (h : s.state = .idle)
    (hp : p.length ≤ P.maxTxLen.val) :
    execWith P (.send p) s = .next (enterBidSend P (storePending p s)) :=
  (if_neg (not_not.mpr h)).trans (if_neg (Nat.not_lt.mpr hp))

/-- `Send` writes its payload from address 0 of TXP and no other byte (20_memory.md R60). -/
theorem storedFromZero_writeSeq (m : Memory) (p : Bytes) :
    StoredFromZero m p (Memory.writeSeq m 0 p) := fun x => by
  rw [Memory.read_writeSeq, if_pos (Nat.zero_le x), Nat.sub_zero]

/-- In Idle the Deadline is disarmed, so no `Timeout` is valid (40_engine_core.md R126, R127). -/
theorem State.Inv.not_validTimeout_of_idle {P : Params} {s : State} (h : s.Inv P)
    (hs : s.state = .idle) (t : Nat) : ¬ ValidTimeout t s := by
  rintro ⟨harmed, -, -⟩
  have hdisarmed : s.dlArmed = false := by rw [h.armed, hs]; rfl
  exact absurd (hdisarmed.symm.trans harmed) Bool.false_ne_true

/-- The state after reset is an Idle entry, whatever its environment holds (70_reset_and_hazards.md
R260, R262). -/
theorem inv_resetWithin (P : Params) (fifo : List QueuedWord) (sched : List Move) :
    (State.resetWithin fifo sched).Inv P :=
  inv_idleEntry (s := State.resetWithin fifo sched) (Nat.two_pow_pos _)

end Sys2Proof.Machine

/-! ## The stale-timer law

How far the Deadline's tag moves over a run without RESET: one up, modulo `2^TAG_W`, per arming, and
without an arming a disarmed Deadline stays disarmed (10_state.md R28, 40_engine_core.md R119). -/

namespace Sys2Proof.Machine

open Sys2Proof.Statements

/-- Fewer than `m` increments modulo `m` do not come back to the value they left. -/
theorem add_mod_ne_self {x k m : Nat} (hpos : 0 < k) (hk : k < m) : (x + k) % m ≠ x := by
  intro h
  have hx : x < m := h ▸ Nat.mod_lt _ (by omega)
  by_cases hwrap : x + k < m
  · rw [Nat.mod_eq_of_lt hwrap] at h; omega
  · rw [Nat.mod_eq_sub_mod (by omega), Nat.mod_eq_of_lt (by omega)] at h; omega

/-- What `k` armings on the way from `s` to `t` make of the Deadline: with none the tag is kept and
nothing arms it, otherwise the tag is `k` further. -/
def DeadlineAfter (P : Params) (k : Nat) (s t : State) : Prop :=
  (k = 0 ∧ t.dlTag = s.dlTag ∧ (t.dlArmed = true → s.dlArmed = true)) ∨
    (0 < k ∧ t.dlTag = (s.dlTag + k) % 2 ^ P.tagW)

namespace DeadlineAfter

variable {P : Params} {j k : Nat} {s t u : State}

theorem trans (h : DeadlineAfter P j s u) (h' : DeadlineAfter P k u t) :
    DeadlineAfter P (j + k) s t := by
  rcases h with ⟨rfl, htag, harmed⟩ | ⟨hj, htag⟩ <;>
    rcases h' with ⟨rfl, htag', harmed'⟩ | ⟨hk, htag'⟩
  · exact .inl ⟨rfl, htag'.trans htag, harmed ∘ harmed'⟩
  · exact .inr ⟨by omega, by rw [htag', htag, Nat.zero_add]⟩
  · exact .inr ⟨by omega, htag'.trans htag⟩
  · exact .inr ⟨by omega, by rw [htag', htag, Nat.mod_add_mod, Nat.add_assoc]⟩

/-- A tag that has been left is not the current one before `2^TAG_W` armings. -/
theorem dlTag_ne (h : DeadlineAfter P k s t) (hpos : 0 < k) (hk : k < 2 ^ P.tagW) :
    t.dlTag ≠ s.dlTag := by
  rcases h with ⟨rfl, -, -⟩ | ⟨-, htag⟩
  · exact absurd hpos (Nat.lt_irrefl 0)
  · exact htag ▸ add_mod_ne_self hpos hk

/-- Without an arming the tag is kept and a disarmed Deadline stays disarmed. -/
theorem zero_iff :
    DeadlineAfter P 0 s t ↔ t.dlTag = s.dlTag ∧ (t.dlArmed = true → s.dlArmed = true) := by
  simp [DeadlineAfter]

/-- Once the arming of a tag has been left, between `s` and `u`, a `Timeout` of it is stale before
`2^TAG_W` armings (40_engine_core.md R119): with one or more the tag has moved on and not yet come round,
with none the Deadline was disarmed and stays so. -/
theorem not_validTimeout_of_left (hfirst : DeadlineAfter P j s u) (hrest : DeadlineAfter P k u t)
    (hleft : u.dlTag ≠ s.dlTag ∨ u.dlArmed = false) (hfew : j + k < 2 ^ P.tagW) :
    ¬ ValidTimeout s.dlTag t := by
  rintro ⟨harmed, -, htag⟩
  rcases Nat.eq_zero_or_pos (j + k) with hnone | hsome
  · obtain ⟨rfl, rfl⟩ := Nat.add_eq_zero_iff.mp hnone
    obtain ⟨hkept, -⟩ := zero_iff.mp hfirst
    obtain ⟨-, hstays⟩ := zero_iff.mp hrest
    have hdisarmed := hleft.resolve_left (not_not.mpr hkept)
    exact Bool.false_ne_true (hdisarmed.symm.trans (hstays harmed))
  · exact (hfirst.trans hrest).dlTag_ne hsome hfew htag.symm

end DeadlineAfter

/-- What one move makes of the Deadline, an arming being counted where the tag changes. -/
abbrev MovesDeadline (P : Params) (s t : State) : Prop :=
  DeadlineAfter P (if t.dlTag = s.dlTag then 0 else 1) s t

theorem movesDeadline_of_kept {P : Params} {s t : State} (htag : t.dlTag = s.dlTag)
    (harmed : t.dlArmed = true → s.dlArmed = true) : MovesDeadline P s t :=
  .inl ⟨if_pos htag, htag, harmed⟩

/-- An arming always changes the tag, which has at least one bit (30_encoding.md R81). -/
theorem movesDeadline_of_armed {P : Params} {s t : State}
    (htag : t.dlTag = (s.dlTag + 1) % 2 ^ P.tagW) : MovesDeadline P s t := by
  have hne : t.dlTag ≠ s.dlTag :=
    htag ▸ add_mod_ne_self Nat.one_pos (Nat.one_lt_two_pow P.tagW_pos.ne')
  rw [MovesDeadline, if_neg hne]
  exact .inr ⟨Nat.one_pos, htag⟩

/-- Every event arms at most once, and touches no move (O20, O43). -/
theorem execWith_movesDeadline {P : Params} {i : Instr} {s t : State}
    (h : execWith P i s = .next t) : MovesDeadline P s t ∧ t.sched = s.sched := by
  obtain ⟨-, -, hsched, -⟩ := Proofs.faultRegisterIsSticky P i s t h
  refine ⟨?_, hsched⟩
  rcases Proofs.eventsMoveTheDeadlineOneArming P i s t h with
    ⟨harmed, htag, -⟩ | ⟨hdisarmed, htag, -⟩ | ⟨-, htag, -⟩
  · exact movesDeadline_of_kept htag (harmed ▸ id)
  · exact movesDeadline_of_kept htag (by simp [hdisarmed])
  · exact movesDeadline_of_armed htag

/-- The engine's move, with a word taken or without one (40_engine_core.md R110). -/
theorem takeWord_movesDeadline {P : Params} {s t : State}
    (h : takeWord P (execWith P) s = .next t) : MovesDeadline P s t ∧ t.sched = s.sched := by
  rcases takeWord_cases P (execWith P) s with
    ⟨hstays, -⟩ | ⟨q, rest, -, -, ⟨-, hraises⟩ | ⟨i, -, hruns⟩⟩
  · cases hstays.symm.trans h; exact ⟨movesDeadline_of_kept rfl id, rfl⟩
  · cases hraises.symm.trans h; exact ⟨movesDeadline_of_kept rfl id, rfl⟩
  · exact execWith_movesDeadline (s := { s with fifo := rest }) (hruns.symm.trans h)

/-- Every move but RESET arms at most once, and none is added to the moves decided on
(60_exceptions.md R237, R238). -/
theorem stepWith_movesDeadline {P : Params} {s t : State} (hreset : Move.reset ∉ s.sched)
    (h : stepWith P s = .next t) : MovesDeadline P s t ∧ Move.reset ∉ t.sched := by
  rcases stepBy_cases P (execWith P) s with ⟨-, htake⟩ | ⟨m, ms, hms, hmove⟩
  · obtain ⟨hmoves, hsched⟩ := takeWord_movesDeadline (htake.symm.trans h)
    exact ⟨hmoves, hsched ▸ hreset⟩
  · rw [hms, List.mem_cons, not_or] at hreset
    obtain ⟨hm, hrest⟩ := hreset
    rcases hmove with ⟨-, htake⟩ | ⟨q, -, hoffer⟩ | ⟨-, hfire⟩ | ⟨rfl, -⟩
    · obtain ⟨hmoves, hsched⟩ :=
        takeWord_movesDeadline (s := { s with sched := ms }) (htake.symm.trans h)
      exact ⟨hmoves, hsched ▸ hrest⟩
    · cases hoffer.symm.trans h; exact ⟨movesDeadline_of_kept rfl id, hrest⟩
    · cases hfire.symm.trans h
      exact ⟨movesDeadline_of_kept (by simp) (by simp), by simpa using hrest⟩
    · exact absurd rfl hm

/-- The armings of a run are those of its first move and of the rest. -/
theorem armings_succ {P : Params} {s u : State} (h : stepWith P s = .next u) (n : Nat) :
    armings P (n + 1) s = (if u.dlTag = s.dlTag then 0 else 1) + armings P n u := by
  rw [armings, h]

/-- Over a run without RESET the tag moves on by the number of armings. -/
theorem runWith_deadlineAfter {P : Params} {n : Nat} {s t : State} (hreset : Move.reset ∉ s.sched)
    (h : runWith P n s = .next t) : DeadlineAfter P (armings P n s) s t := by
  induction n generalizing s with
  | zero => cases h; exact .inl ⟨rfl, rfl, id⟩
  | succ n ih =>
    obtain ⟨u, hu, ht⟩ := runWith_succ_next.mp h
    obtain ⟨hfirst, hreset'⟩ := stepWith_movesDeadline hreset hu
    rw [armings_succ hu]
    exact hfirst.trans (ih hreset' ht)

end Sys2Proof.Machine

namespace Sys2Proof.Proofs

open Sys2Proof Sys2Proof.Machine Sys2Proof.Statements

/-- Settles O21: the leaving step and the run after it move the tag by their armings, which are too few
for it to come round. -/
theorem staleTimerLaw : Obligations.StaleTimerLaw := by
  unfold Obligations.StaleTimerLaw
  rintro P n s u t g rfl hreset hu hleft ht hfew
  obtain ⟨hfirst, hreset'⟩ := stepWith_movesDeadline hreset hu
  have hrest := runWith_deadlineAfter hreset' ht
  rw [armings_succ hu] at hfew
  exact execWith_timeout_stale (hfirst.not_validTimeout_of_left hrest hleft hfew)

/-- Settles O45: the answer of a move from a state of the invariant is one of it. -/
theorem stepKeepsInvariant : Obligations.StepKeepsInvariant := by
  unfold Obligations.StepKeepsInvariant
  exact .of_forall fun P s t h ht => h.after_stepWith ht

/-- Settles O3, by the checks of `Send` in their order. -/
theorem sendStoresAndBidsOrFaults : Obligations.SendStoresAndBidsOrFaults := by
  unfold Obligations.SendStoresAndBidsOrFaults
  refine .of_forall fun P s p => ⟨fun hs hp => ?_, fun hs => ?_, fun hs hp => ?_⟩
  · refine ⟨_, storedFromZero_writeSeq s.pfBytes p, ?_⟩
    rw [execWith_send_idle hs hp, enterBidSend_eq_entered]
    rfl
  · exact execWith_send_notIdle hs p
  · exact execWith_send_tooLong hs hp

/-- Settles O1: the Idle row's ESCAPE arm enters BidWait. -/
theorem idleEscapeEntersBidWait : Obligations.IdleEscapeEntersBidWait := by
  unfold Obligations.IdleEscapeEntersBidWait
  refine .of_forall fun P s hs i hi => ?_
  rw [execWith_of_mem_escapes hi, transition_idle P .escape s hs, ← enterResting_eq_entered]
  rfl

/-- Settles O2: the Idle row's LINEERR arm is abort-with-nak. -/
theorem idleLineErrorAborts : Obligations.IdleLineErrorAborts := by
  unfold Obligations.IdleLineErrorAborts
  refine .of_forall fun P s hs => ?_
  rw [← abortWithNak_eq_aborted]
  exact transition_idle P .lineErr s hs

/-- Settles O18: the check of a `Timeout` comes before every rule. -/
theorem staleTimeoutIsNoOp : Obligations.StaleTimeoutIsNoOp := by
  unfold Obligations.StaleTimeoutIsNoOp
  exact .of_forall fun P s t h => execWith_timeout_stale h

/-- Settles O31: either form of the engine's move takes the word, and a decoded word is run. -/
theorem stepRunsTheDecodedInstruction : Obligations.StepRunsTheDecodedInstruction := by
  unfold Obligations.StepRunsTheDecodedInstruction
  refine .of_forall fun P s w p rest ms i hsched hfault hfifo hd => ?_
  have hword : decodeQueued P.tagW ⟨w.toNat, p⟩ = .ok i := by
    rw [decodeQueued, QueuedWord.bits_toNat, hd]
  rw [stepWith_takes hsched]
  exact takeWord_runs (s := { s with sched := ms }) hfault hfifo hword

/-- Settles O44: the state after reset is an Idle entry. -/
theorem invariantHoldsAtReset : Obligations.InvariantHoldsAtReset := by
  unfold Obligations.InvariantHoldsAtReset
  exact ⟨inv_resetWithin Config.params [] [], inv_resetWithin⟩

/-- Settles O49: a `Timeout` offered in Idle is stale. -/
theorem timeoutInIdleIsNoOp : Obligations.TimeoutInIdleIsNoOp := by
  unfold Obligations.TimeoutInIdleIsNoOp
  refine .of_forall fun P s t h hs => ?_
  have hstale := h.not_validTimeout_of_idle hs t
  exact ⟨hstale, execWith_timeout_stale hstale⟩

end Sys2Proof.Proofs

/-! ## Retransmitted frames

A wire frame in FrameSync is answered and, where its checksum is wrong, leads back to FrameSync, so that
any number of corrupt copies can come before the right one (41_responder.md R166, R167). -/

namespace Sys2Proof.Machine

/-- A wire frame in FrameSync leads to the answer of ChecksumCheck, nothing emitted before it. -/
theorem receives_answeredFrame {P : Params} {s : State} {p : Bytes} (hP : CodesDistinct P)
    (hs : s.Listening) (hstate : s.state = .frameSync) (hp : p.length ≤ Config.rxCap) (k : Half) :
    ∃ u, u.effects = s.effects ∧ Receives P (wireFrame P p k) s
      (if frameChecksum P p = k then idleEntry (emit (.frame p) (emit (.sendBytes (ackSeq P)) u))
        else nakAndResync P u) := by
  obtain ⟨u, hu, hframe⟩ := receives_wireFrame hP hs hstate hp k
  exact ⟨u, hu.effects, hframe _ hu.enterChecksumCheck_eq⟩

/-- Corrupt copies of a frame emit one nak each and leave the engine in FrameSync (41_responder.md
R167). -/
theorem receives_corruptFrames {P : Params} {s : State} {p : Bytes} {ks : List Half}
    (hP : CodesDistinct P) (hs : s.Listening) (hstate : s.state = .frameSync)
    (hp : p.length ≤ Config.rxCap) (hks : ∀ k ∈ ks, k ≠ frameChecksum P p) :
    ∃ t, Receives P (ks.flatMap (wireFrame P p)) s t ∧ t.state = .frameSync ∧
      t.effects = s.effects ++ List.replicate ks.length (.sendBytes (nakSeq P)) := by
  induction ks generalizing s with
  | nil => exact ⟨s, .nil hs, hstate, by simp⟩
  | cons k ks ih =>
    obtain ⟨hk, hks⟩ := List.forall_mem_cons.mp hks
    obtain ⟨u, hu, hfirst⟩ := receives_answeredFrame hP hs hstate hp k
    rw [if_neg hk.symm] at hfirst
    obtain ⟨t, hrest, ht, heff⟩ := ih hfirst.listening (nakAndResync_state P u) hks
    refine ⟨t, hfirst.append hrest, ht, ?_⟩
    rw [heff, nakAndResync_effects, hu, List.length_cons, List.replicate_succ, List.append_assoc]
    rfl

end Sys2Proof.Machine

namespace Sys2Proof.Proofs

open Sys2Proof Sys2Proof.Machine Sys2Proof.Statements

/-- Settles O51: the corrupt copies lead back to FrameSync, by induction on their number, and the right
copy is received from there. -/
theorem corruptFramesAreNakkedThenAccepted : Obligations.CorruptFramesAreNakkedThenAccepted := by
  unfold Obligations.CorruptFramesAreNakkedThenAccepted
  intro P s p ks as hP hstate hfault hfifo hp hks hmap
  obtain ⟨t, hcorrupt, ht, heff⟩ := receives_corruptFrames hP ⟨hfault, hfifo⟩ hstate hp hks
  obtain ⟨u, hu, hright⟩ :=
    receives_answeredFrame hP hcorrupt.listening ht hp (frameChecksum P p)
  rw [if_pos rfl] at hright
  obtain ⟨hfault', hfifo'⟩ := hright.listening
  refine ⟨_, (hcorrupt.append hright).receiveLine_eq hmap, rfl, hfault', hfifo', ?_⟩
  simp [hu, heff, nakSeq, ackSeq]

end Sys2Proof.Proofs

/-! ## The rows of the responder

What each row of the matrix answers to the events it names and to all others, said once per row, and
the class under which an event reaches its row (43_event_instructions.md R222). -/

namespace Sys2Proof.Machine

open Sys2Proof.Statements

/-! ### The class of an event (30_encoding.md R84) -/

/-- The class under which an event reaches the transition rules from `s`: none for a stale `Timeout`,
for `Send` and for the reserved codes. -/
def State.classOf (s : State) : Instr → Option EventClass
  | .lineBidByte1 | .frameStartEscape | .frameEndEscape => some .escape
  | .lineBidByte2 => some .bidCode
  | .frameStartMarker => some .startMark
  | .dataByte v => some (.data v)
  | .frameEndMarker => some .endMark
  | .ackByte => some .ack
  | .nakByte => some .nak
  | .lineError => some .lineErr
  | .timeout t => if timeoutValid t s then some .timeout else none
  | .send _ | .reservedC | .reservedD | .reservedE | .reservedF => none

/-- An event that has a class is the transition of its class (40_engine_core.md R110, R119). -/
theorem execWith_of_classOf {P : Params} {s : State} {i : Instr} {c : EventClass}
    (h : s.classOf i = some c) : execWith P i s = transition P c s := by
  cases i
  case timeout t =>
    obtain ⟨hvalid, rfl⟩ : timeoutValid t s = true ∧ .timeout = c := by
      simpa [State.classOf] using h
    exact if_pos hvalid
  case send | reservedC | reservedD | reservedE | reservedF => cases h
  all_goals
    cases h
    rfl

/-- The event reaches the transition rules from `s` under a class of which `p` holds. -/
def State.TakesAs (s : State) (p : EventClass → Prop) (i : Instr) : Prop :=
  ∃ c, s.classOf i = some c ∧ p c

/-- Where a row answers the same to every class of which `p` holds, that is the answer to every such
event. -/
theorem State.TakesAs.execWith_eq {P : Params} {s : State} {p : EventClass → Prop} {i : Instr}
    {r : Result} (h : s.TakesAs p i) (hrow : ∀ c, p c → transition P c s = r) :
    execWith P i s = r := by
  obtain ⟨c, hc, hp⟩ := h
  exact (execWith_of_classOf hc).trans (hrow c hp)

/-- The same for each event of a list. -/
theorem forall_mem_execWith_eq {P : Params} {s : State} {p : EventClass → Prop} {is : List Instr}
    {r : Result} (h : ∀ i ∈ is, s.TakesAs p i) (hrow : ∀ c, p c → transition P c s = r) :
    ∀ i ∈ is, execWith P i s = r :=
  fun i hi => (h i hi).execWith_eq hrow

/-- A lost reply has the class LINEERR or TIMEOUT. -/
theorem takesAs_of_lostReply {s : State} {i : Instr} (h : LostReply i s) :
    s.TakesAs (fun c => c = .lineErr ∨ c = .timeout) i := by
  rcases h with rfl | ⟨t, rfl, hvalid⟩
  · exact ⟨.lineErr, rfl, .inl rfl⟩
  · exact ⟨.timeout, if_pos ((timeoutValid_iff t s).mpr hvalid), .inr rfl⟩

/-! ### The stay arms (40_engine_core.md R125) -/

/-- Idle and the initiator's two echo-waiting states stay on any event but an ESCAPE and the two causes
of a lost reply (42_initiator.md R185, R193). -/
theorem transition_waiting_stays {P : Params} {s : State} {c : EventClass}
    (hs : s.state = .idle ∨ s.state = .bidAckWait ∨ s.state = .frameAckWait)
    (hc : c ≠ .escape ∧ c ≠ .lineErr ∧ c ≠ .timeout) : transition P c s = .next s := by
  obtain ⟨hescape, hline, htime⟩ := hc
  cases c
  case escape => exact absurd rfl hescape
  case lineErr => exact absurd rfl hline
  case timeout => exact absurd rfl htime
  all_goals rcases hs with hs | hs | hs <;> simp only [transition, hs] <;> rfl

/-- While bytes are collected a row stays on any event but a byte and the two causes of a lost reply
(41_responder.md R155, R158, R165). -/
theorem transition_collecting_stays {P : Params} {s : State} {c : EventClass}
    (hs : s.state = .lengthField ∨ s.state = .payload ∨ s.state = .checksum)
    (hc : (∀ v, c ≠ .data v) ∧ c ≠ .lineErr ∧ c ≠ .timeout) : transition P c s = .next s := by
  obtain ⟨hdata, hline, htime⟩ := hc
  cases c
  case data v => exact absurd rfl (hdata v)
  case lineErr => exact absurd rfl hline
  case timeout => exact absurd rfl htime
  all_goals rcases hs with hs | hs | hs <;> simp only [transition, hs] <;> rfl

/-! ### The rows (41_responder.md) -/

/-- A lost reply while bytes are collected is nak-and-resync (R154, R157, R164). -/
theorem transition_collecting_lost {P : Params} {s : State} {c : EventClass}
    (hs : s.state = .lengthField ∨ s.state = .payload ∨ s.state = .checksum)
    (hc : c = .lineErr ∨ c = .timeout) : transition P c s = .next (nakAndResync P s) := by
  rcases hc with rfl | rfl <;> rcases hs with hs | hs | hs <;>
    simp only [transition, hs] <;> rfl

/-- A lost reply in BidWait is abort-with-nak (R142). -/
theorem bidWaitOn_lost {P : Params} {s : State} {c : EventClass}
    (hc : c = .lineErr ∨ c = .timeout) : bidWaitOn P c s = .next (abortWithNak P s) := by
  rcases hc with rfl | rfl <;> rfl

/-- Any event in BidWait but the bid code and a lost reply, an ESCAPE too, enters Idle (R143). -/
theorem bidWaitOn_other {P : Params} {s : State} {c : EventClass}
    (hc : c ≠ .bidCode ∧ c ≠ .lineErr ∧ c ≠ .timeout) :
    bidWaitOn P c s = .next (idleEntry s) := by
  obtain ⟨hbid, hline, htime⟩ := hc
  cases c with
  | bidCode => exact absurd rfl hbid
  | lineErr => exact absurd rfl hline
  | timeout => exact absurd rfl htime
  | _ => rfl

/-- Any event in FrameSync but an ESCAPE and a lost reply enters BidWait (R147). -/
theorem frameSyncOn_other {P : Params} {s : State} {c : EventClass}
    (hc : c ≠ .escape ∧ c ≠ .lineErr ∧ c ≠ .timeout) :
    frameSyncOn P c s = .next (enterResting P .bidWait s) := by
  obtain ⟨hescape, hline, htime⟩ := hc
  cases c with
  | escape => exact absurd rfl hescape
  | lineErr => exact absurd rfl hline
  | timeout => exact absurd rfl htime
  | _ => rfl

/-- Any event in FrameStart but an ESCAPE, the bid code and the start marker is nak-and-resync (R152). -/
theorem frameStartOn_other {P : Params} {s : State} {c : EventClass}
    (hc : c ≠ .escape ∧ c ≠ .bidCode ∧ c ≠ .startMark) :
    frameStartOn P c s = .next (nakAndResync P s) := by
  obtain ⟨hescape, hbid, hstart⟩ := hc
  cases c with
  | escape => exact absurd rfl hescape
  | bidCode => exact absurd rfl hbid
  | startMark => exact absurd rfl hstart
  | _ => rfl

/-- Any event in FrameEndEscape but an ESCAPE is nak-and-resync (R160). -/
theorem frameEndEscapeOn_other {P : Params} {s : State} {c : EventClass} (hc : c ≠ .escape) :
    frameEndEscapeOn P c s = .next (nakAndResync P s) := by
  cases c with
  | escape => exact absurd rfl hc
  | _ => rfl

/-- Any event in FrameEnd but the end marker is nak-and-resync (R162). -/
theorem frameEndOn_other {P : Params} {s : State} {c : EventClass} (hc : c ≠ .endMark) :
    frameEndOn P c s = .next (nakAndResync P s) := by
  cases c with
  | endMark => exact absurd rfl hc
  | _ => rfl

/-! ### Collected bytes -/

/-- Two length bytes are parsed as the number they are big-endian (20_memory.md R63). -/
theorem TwoBytes.bigEndian_eq {b : TwoBytes} {n : Half}
    (h : n.toNat = b.at0.toNat * 256 + b.at1.toNat) : b.bigEndian = n :=
  BitVec.eq_of_toNat_eq (b.bigEndian_toNat.trans h.symm)

/-- The received payload is what ChecksumCheck reads (20_memory.md R60). -/
theorem memRead_of_received {P : Params} {s : State} {p : Bytes} (h : Received s p) :
    memRead P .rxData s.databuf s.rxLen.toNat = .ok p := by
  obtain ⟨hlen, hbytes⟩ := h
  exact memRead_ok.mpr ⟨Nat.le_of_lt_succ s.rxLen.isLt, hlen, hlen ▸ hbytes⟩

/-- ChecksumCheck compares the two held bytes as the number they are little-endian (20_memory.md R64,
R65). -/
theorem checksum_eq_littleEndian_iff (P : Params) (lb cb : TwoBytes) (p : Bytes) :
    P.checksum (checksumInput P lb p) = cb.littleEndian ↔
      (P.checksum ([lb.at0, lb.at1] ++ p ++ [P.escCode, P.endCode])).toNat =
        cb.at0.toNat + 256 * cb.at1.toNat := by
  rw [← TwoBytes.littleEndian_toNat, BitVec.toNat_inj]
  rfl

/-! ### The answers as whole states -/

/-- nak-and-resync (40_engine_core.md R120). -/
theorem nakAndResync_eq_resynced (P : Params) (s : State) : nakAndResync P s = resynced P s :=
  enterResting_emit_eq_entered P .frameSync _ s

/-- What ChecksumCheck answers on a received payload (41_responder.md R166). -/
theorem enterChecksumCheck_of_received {P : Params} {s : State} {p : Bytes} (h : Received s p) :
    enterChecksumCheck P s = .next
      (if (P.checksum ([s.lenbuf.at0, s.lenbuf.at1] ++ p ++ [P.escCode, P.endCode])).toNat =
          s.crcbuf.at0.toNat + 256 * s.crcbuf.at1.toNat then
        idled [.sendBytes [P.escCode, P.ackCode], .frame p] s
      else resynced P s) := by
  refine enterChecksumCheck_next.mpr ⟨p, memRead_of_received h, ?_⟩
  rw [← nakAndResync_eq_resynced]
  refine if_congr (checksum_eq_littleEndian_iff P s.lenbuf s.crcbuf p).symm ?_ rfl
  simp [idleEntry, idled, emit, ackSeq]

end Sys2Proof.Machine

namespace Sys2Proof.Proofs

open Sys2Proof Sys2Proof.Machine Sys2Proof.Statements

/-- Settles O4: the events named have classes on which the rows stay. -/
theorem stayArmsChangeNothing : Obligations.StayArmsChangeNothing := by
  unfold Obligations.StayArmsChangeNothing
  refine .of_forall fun P s v => ⟨fun hs => ?_, fun hs => ?_, fun hs => ?_⟩
  · exact forall_mem_execWith_eq (by simp [State.TakesAs, State.classOf])
      fun c => transition_waiting_stays (.inl hs)
  · exact forall_mem_execWith_eq (by simp [State.TakesAs, State.classOf, escapes])
      fun c => transition_collecting_stays hs
  · exact forall_mem_execWith_eq (by simp [State.TakesAs, State.classOf])
      fun c => transition_waiting_stays (.inr hs)

/-- Settles O5, by the arms of the BidWait row. -/
theorem bidWaitRow : Obligations.BidWaitRow := by
  unfold Obligations.BidWaitRow
  refine .of_forall fun P s hs => ?_
  have hrow (c : EventClass) : transition P c s = bidWaitOn P c s := transition_bidWait P c s hs
  refine ⟨?_, fun i hi => ?_, fun v => ?_⟩
  · rw [← enterResting_emit_eq_entered]
    exact hrow .bidCode
  · rw [← abortWithNak_eq_aborted]
    exact (takesAs_of_lostReply hi).execWith_eq fun c hc => (hrow c).trans (bidWaitOn_lost hc)
  · rw [← idleEntry_eq_idled]
    exact forall_mem_execWith_eq (by simp [State.TakesAs, State.classOf, escapes])
      fun c hc => (hrow c).trans (bidWaitOn_other hc)

/-- Settles O6, by the arms of the FrameSync row. -/
theorem frameSyncRow : Obligations.FrameSyncRow := by
  unfold Obligations.FrameSyncRow
  refine .of_forall fun P s hs => ?_
  have hrow (c : EventClass) : transition P c s = frameSyncOn P c s := transition_frameSync P c s hs
  refine ⟨fun i hi => ?_, fun t ht => ?_, ?_, fun v => ?_⟩
  · rw [execWith_of_mem_escapes hi, hrow, ← enterResting_eq_entered]
    rfl
  · have hclass : s.classOf (.timeout t) = some .timeout := if_pos ((timeoutValid_iff t s).mpr ht)
    rw [execWith_of_classOf hclass, hrow, ← idleEntry_eq_idled]
    rfl
  · rw [← abortWithNak_eq_aborted]
    exact hrow .lineErr
  · rw [← enterResting_eq_entered]
    exact forall_mem_execWith_eq (by simp [State.TakesAs, State.classOf])
      fun c hc => (hrow c).trans (frameSyncOn_other hc)

/-- Settles O7, by the arms of the FrameStart row. -/
theorem frameStartRow : Obligations.FrameStartRow := by
  unfold Obligations.FrameStartRow
  refine .of_forall fun P s hs => ?_
  have hrow (c : EventClass) : transition P c s = frameStartOn P c s :=
    transition_frameStart P c s hs
  refine ⟨fun i hi => ?_, ?_, ?_, fun i hi => ?_, fun v => ?_⟩
  · rw [execWith_of_mem_escapes hi, hrow, ← enterResting_eq_entered]
    rfl
  · rw [← enterResting_emit_eq_entered]
    exact hrow .bidCode
  · rw [← enterResting_eq_entered]
    exact hrow .startMark
  · rw [← nakAndResync_eq_resynced]
    refine (takesAs_of_lostReply hi).execWith_eq fun c hc => (hrow c).trans (frameStartOn_other ?_)
    rcases hc with rfl | rfl <;> decide
  · rw [← nakAndResync_eq_resynced]
    exact forall_mem_execWith_eq (by simp [State.TakesAs, State.classOf])
      fun c hc => (hrow c).trans (frameStartOn_other hc)

/-- Settles O8: the first length byte is held, the second one is parsed with it. -/
theorem lengthBytesAreCollected : Obligations.LengthBytesAreCollected := by
  unfold Obligations.LengthBytesAreCollected
  refine .of_forall fun P s v hs => ?_
  have hbyte : execWith P (.dataByte v) s = lengthByte P v s := transition_lengthField P (.data v) s hs
  rw [hbyte]
  refine ⟨fun hcount => lengthByte_first P v s hcount, fun hcount n hn => ?_⟩
  have hlen : ({ s.lenbuf with at1 := v } : TwoBytes).bigEndian = n := TwoBytes.bigEndian_eq hn
  rw [lengthByte_second P v s hcount, hlen, enterResting_eq_entered]

/-- Settles O9: below the parsed length `data_count` is an address of RXDATA. -/
theorem payloadBytesAreCollected : Obligations.PayloadBytesAreCollected := by
  unfold Obligations.PayloadBytesAreCollected
  refine .of_forall fun P s v hs hopen => ?_
  have hwithin : s.dataCount.toNat < Space.size P .rxData :=
    Nat.lt_of_lt_of_le hopen (Nat.le_of_lt_succ s.rxLen.isLt)
  refine ⟨Memory.write s.databuf s.dataCount.toNat v,
    fun x => Memory.read_write s.databuf s.dataCount.toNat x v, ?_⟩
  rw [← enterResting_eq_entered]
  exact (transition_payload P (.data v) s hs).trans (payloadByte_next.mpr ⟨hwithin, rfl⟩)

/-- Settles O10: the three collecting rows answer a lost reply alike. -/
theorem collectingStatesResyncOnLoss : Obligations.CollectingStatesResyncOnLoss := by
  unfold Obligations.CollectingStatesResyncOnLoss
  refine .of_forall fun P s hs i hi => ?_
  rw [← nakAndResync_eq_resynced]
  exact (takesAs_of_lostReply hi).execWith_eq fun c => transition_collecting_lost hs

/-- Settles O11, by the arms of the FrameEndEscape and FrameEnd rows. -/
theorem frameEndRows : Obligations.FrameEndRows := by
  unfold Obligations.FrameEndRows
  refine .of_forall fun P s v => ?_
  rw [← nakAndResync_eq_resynced]
  constructor
  · intro hs
    have hrow (c : EventClass) : transition P c s = frameEndEscapeOn P c s :=
      transition_frameEndEscape P c s hs
    refine ⟨fun i hi => ?_, fun i hi => ?_, ?_⟩
    · rw [execWith_of_mem_escapes hi, hrow, ← enterResting_eq_entered]
      rfl
    · refine (takesAs_of_lostReply hi).execWith_eq fun c hc =>
        (hrow c).trans (frameEndEscapeOn_other ?_)
      rcases hc with rfl | rfl <;> decide
    · exact forall_mem_execWith_eq (by simp [State.TakesAs, State.classOf])
        fun c hc => (hrow c).trans (frameEndEscapeOn_other hc)
  · intro hs
    have hrow (c : EventClass) : transition P c s = frameEndOn P c s := transition_frameEnd P c s hs
    refine ⟨?_, fun i hi => ?_, ?_⟩
    · rw [← enterResting_eq_entered]
      exact hrow .endMark
    · refine (takesAs_of_lostReply hi).execWith_eq fun c hc => (hrow c).trans (frameEndOn_other ?_)
      rcases hc with rfl | rfl <;> decide
    · exact forall_mem_execWith_eq (by simp [State.TakesAs, State.classOf, escapes])
        fun c hc => (hrow c).trans (frameEndOn_other hc)

/-- Settles O12: the first checksum byte is held, the second one is checked with it in its step. -/
theorem checksumBytesAreChecked : Obligations.ChecksumBytesAreChecked := by
  unfold Obligations.ChecksumBytesAreChecked
  refine .of_forall fun P s v hs => ?_
  have hbyte : execWith P (.dataByte v) s = checksumByte P v s := transition_checksum P (.data v) s hs
  rw [hbyte]
  refine ⟨fun hcount => checksumByte_first P v s hcount, fun hcount p hp => ?_⟩
  rw [checksumByte_second P v s hcount]
  exact enterChecksumCheck_of_received hp

end Sys2Proof.Proofs

/-! ## The rows of the initiator

A bounded retry as the whole states it answers, the retry that a lost reply causes in each state, and
what the rows answer to the events they do not name (42_initiator.md R180 to R197). -/

namespace Sys2Proof.Machine

open Sys2Proof.Statements

/-! ### Bounded retries (40_engine_core.md R117) -/

theorem counterWrite_succ_eq_bumped (c : Counter) (s : State) :
    c.write (c.read s + 1) s = bumped c s := by
  cases c <;> rfl

theorem valueOf_eq_read (c : Counter) (s : State) : valueOf c s = c.read s := by
  cases c <;> rfl

/-- A retry counter is no part of the pending payload (10_state.md R26, R32). -/
theorem pending_bumped {P : Params} {c : Counter} {s : State} {p : Bytes} :
    Pending P (bumped c s) p ↔ Pending P s p := by
  cases c <;> exact Iff.rfl

/-- Transmit sends the pending payload and is left for FrameAckWait (42_initiator.md R190). -/
theorem enterTransmit_of_pending {P : Params} {s : State} {p : Bytes} (h : Pending P s p) :
    enterTransmit P s = .next (entered P .frameAckWait [.sendBytes p] s) := by
  obtain ⟨hvalid, hlen, hmax, hbytes⟩ := h
  have hread : memRead P .txp s.pfBytes s.pfLen.toNat = .ok p :=
    memRead_ok.mpr ⟨hlen ▸ hmax, hlen, hlen ▸ hbytes⟩
  rw [← enterResting_emit_eq_entered]
  exact enterTransmit_next.mpr ⟨hvalid, p, hread, rfl⟩

/-- A retry whose target is left for `S` with `es` sent is a bounded retry that restarts there. -/
theorem retry_retries {P : Params} {a : RetryAction} {S : EngineState} {es : List Effect} {s : State}
    (hrestart : ∀ c, enter P a.target (bumped c s) = .next (entered P S es (bumped c s))) :
    Retries P (a.counter P.counterMap) S es s (retry P a s) := by
  have hbelow : ∀ n : BitVec 2, n < 2 → n + 1 < Config.retryCap := by decide
  rw [retry_eq, counterWrite_succ_eq_bumped, ← valueOf_eq_read]
  constructor
  · intro hn
    rw [if_pos (hbelow _ hn)]
    exact hrestart _
  · intro hn
    rw [hn, if_neg (by decide)]
    cases a.counter P.counterMap <;> rfl

/-- A retry of the bid (42_initiator.md R182). -/
theorem retry_retriesBid {P : Params} {a : RetryAction} (ha : a.target = .bidSend) (s : State) :
    Retries P (a.counter P.counterMap) .bidAckWait [.sendBytes [P.escCode, P.bidCode]] s
      (retry P a s) :=
  retry_retries fun c => by rw [ha, enter_bidSend, enterBidSend_eq_entered]

/-- A retry of the pending payload (R190). -/
theorem retry_retriesPayload {P : Params} {a : RetryAction} {s : State} {p : Bytes}
    (ha : a.target = .transmit) (hp : Pending P s p) :
    Retries P (a.counter P.counterMap) .frameAckWait [.sendBytes p] s (retry P a s) :=
  retry_retries fun c => by rw [ha, enter_transmit, enterTransmit_of_pending (pending_bumped.mpr hp)]

/-! ### Lost replies (42_initiator.md R180) -/

/-- The bounded-retry action that a lost reply causes in a state: none outside the initiator's resting
states. -/
def EngineState.retryAction : EngineState → Option RetryAction
  | .bidAckWait => some .bid
  | .bidAck => some .handshake
  | .frameAckWait => some .frameHandshake
  | .frameAck => some .frameAck
  | _ => none

theorem transition_lost {P : Params} {s : State} {c : EventClass} {a : RetryAction}
    (ha : s.state.retryAction = some a) (hc : c = .lineErr ∨ c = .timeout) :
    transition P c s = retry P a s := by
  unfold transition
  cases hs : s.state
  case bidAckWait | bidAck | frameAckWait | frameAck =>
    rw [hs] at ha
    cases ha
    rcases hc with rfl | rfl <;> rfl
  all_goals
    rw [hs] at ha
    cases ha

theorem execWith_lost {P : Params} {s : State} {i : Instr} {a : RetryAction}
    (ha : s.state.retryAction = some a) (hi : LostReply i s) : execWith P i s = retry P a s :=
  (takesAs_of_lostReply hi).execWith_eq fun _ => transition_lost ha

/-- The counter of a state's action is the one the map gives the state. -/
theorem counter_of_retryAction {S : EngineState} {a : RetryAction} (ha : S.retryAction = some a)
    (m : CounterMap) : a.counter m = counterOf m S := by
  cases S
  case bidAckWait | bidAck | frameAckWait | frameAck => cases ha; cases m <;> rfl
  all_goals cases ha

theorem counterOf_bidAckWait (m : CounterMap) : counterOf m .bidAckWait = .c0 := by
  cases m <;> rfl

/-- A lost reply to the bid re-sends the bid. -/
theorem execWith_lost_retriesBid {P : Params} {s : State} {i : Instr}
    (hs : s.state = .bidAckWait ∨ s.state = .bidAck) (hi : LostReply i s) :
    Retries P (counterOf P.counterMap s.state) .bidAckWait [.sendBytes [P.escCode, P.bidCode]] s
      (execWith P i s) := by
  obtain ⟨a, ha, htarget⟩ : ∃ a, s.state.retryAction = some a ∧ a.target = .bidSend := by
    rcases hs with hs | hs <;> rw [hs] <;> exact ⟨_, rfl, rfl⟩
  rw [execWith_lost ha hi, ← counter_of_retryAction ha]
  exact retry_retriesBid htarget s

/-- A lost reply to the payload re-sends the payload. -/
theorem execWith_lost_retriesPayload {P : Params} {s : State} {i : Instr} {p : Bytes}
    (hs : s.state = .frameAckWait ∨ s.state = .frameAck) (hp : Pending P s p) (hi : LostReply i s) :
    Retries P (counterOf P.counterMap s.state) .frameAckWait [.sendBytes p] s (execWith P i s) := by
  obtain ⟨a, ha, htarget⟩ : ∃ a, s.state.retryAction = some a ∧ a.target = .transmit := by
    rcases hs with hs | hs <;> rw [hs] <;> exact ⟨_, rfl, rfl⟩
  rw [execWith_lost ha hi, ← counter_of_retryAction ha]
  exact retry_retriesPayload htarget hp

/-! ### The other arms -/

/-- A nak of the frame re-sends the payload, on `c1` under either map (R196). -/
theorem execWith_nak_retriesPayload {P : Params} {s : State} {p : Bytes} (hs : s.state = .frameAck)
    (hp : Pending P s p) :
    Retries P .c1 .frameAckWait [.sendBytes p] s (execWith P .nakByte s) := by
  have hnak : execWith P .nakByte s = retry P .frameAck s := transition_frameAck P .nak s hs
  rw [hnak]
  exact retry_retriesPayload (a := .frameAck) rfl hp

/-- Any event in BidAck but the bid code, an acknowledge and a lost reply enters BidAckWait (R189). -/
theorem bidAckOn_other {P : Params} {s : State} {c : EventClass}
    (hc : c ≠ .bidCode ∧ c ≠ .ack ∧ c ≠ .lineErr ∧ c ≠ .timeout) :
    bidAckOn P c s = .next (enterResting P .bidAckWait s) := by
  obtain ⟨hbid, hack, hline, htime⟩ := hc
  cases c with
  | bidCode => exact absurd rfl hbid
  | ack => exact absurd rfl hack
  | lineErr => exact absurd rfl hline
  | timeout => exact absurd rfl htime
  | _ => rfl

/-- Any event in FrameAck but the bid code, the two replies and a lost reply enters FrameAckWait
(R197). -/
theorem frameAckOn_other {P : Params} {s : State} {c : EventClass}
    (hc : c ≠ .bidCode ∧ c ≠ .ack ∧ c ≠ .nak ∧ c ≠ .lineErr ∧ c ≠ .timeout) :
    frameAckOn P c s = .next (enterResting P .frameAckWait s) := by
  obtain ⟨hbid, hack, hnak, hline, htime⟩ := hc
  cases c with
  | bidCode => exact absurd rfl hbid
  | ack => exact absurd rfl hack
  | nak => exact absurd rfl hnak
  | lineErr => exact absurd rfl hline
  | timeout => exact absurd rfl htime
  | _ => rfl

end Sys2Proof.Machine

namespace Sys2Proof.Proofs

open Sys2Proof Sys2Proof.Machine Sys2Proof.Statements

/-- Settles O17: the action of the state, its counter and its target. -/
theorem retryCountersUnderEitherMap : Obligations.RetryCountersUnderEitherMap := by
  unfold Obligations.RetryCountersUnderEitherMap
  exact fun P s i p hi hp =>
    ⟨fun hs => execWith_lost_retriesBid hs hi, fun hs => execWith_lost_retriesPayload hs hp hi⟩

/-- Settles O13: the ESCAPE arm of the row, and its retry, which is on `c0` under either map. -/
theorem bidAckWaitRow : Obligations.BidAckWaitRow := by
  unfold Obligations.BidAckWaitRow
  refine .of_forall fun P s hs => ⟨fun i hi => ?_, fun i hi => ?_⟩
  · rw [execWith_of_mem_escapes hi, transition_bidAckWait P .escape s hs, ← enterResting_eq_entered]
    rfl
  · have hretries := execWith_lost_retriesBid (P := P) (.inl hs) hi
    rwa [hs, counterOf_bidAckWait] at hretries

/-- Settles O14, by the arms of the BidAck row. -/
theorem bidAckRow : Obligations.BidAckRow := by
  unfold Obligations.BidAckRow
  refine .of_forall fun P s hs => ?_
  have hrow (c : EventClass) : transition P c s = bidAckOn P c s := transition_bidAck P c s hs
  refine ⟨?_, fun p hp => ?_, fun i hi => ?_, fun v => ?_⟩
  · rw [← enterBidSend_eq_entered]
    exact hrow .bidCode
  · rw [← enterTransmit_of_pending hp]
    exact hrow .ack
  · have hretries := execWith_lost_retriesBid (P := P) (.inr hs) hi
    rwa [hs] at hretries
  · rw [← enterResting_eq_entered]
    exact forall_mem_execWith_eq (by simp [State.TakesAs, State.classOf, escapes])
      fun c hc => (hrow c).trans (bidAckOn_other hc)

/-- Settles O15: the ESCAPE arm of the row, and its retry. -/
theorem frameAckWaitRow : Obligations.FrameAckWaitRow := by
  unfold Obligations.FrameAckWaitRow
  refine .of_forall fun P s hs => ⟨fun i hi => ?_, fun p hp i hi => ?_⟩
  · rw [execWith_of_mem_escapes hi, transition_frameAckWait P .escape s hs,
      ← enterResting_eq_entered]
    rfl
  · have hretries := execWith_lost_retriesPayload (.inl hs) hp hi
    rwa [hs] at hretries

/-- Settles O16, by the arms of the FrameAck row. -/
theorem frameAckRow : Obligations.FrameAckRow := by
  unfold Obligations.FrameAckRow
  refine .of_forall fun P s hs => ?_
  have hrow (c : EventClass) : transition P c s = frameAckOn P c s := transition_frameAck P c s hs
  refine ⟨?_, hrow .ack, fun p hp i hi => ?_, fun v => ?_⟩
  · rw [← idleEntry_eq_idled]
    exact hrow .bidCode
  · rcases hi with rfl | hi
    · exact execWith_nak_retriesPayload hs hp
    · rw [execWith_lost (by rw [hs]; rfl) hi]
      exact retry_retriesPayload (a := .frameAck) rfl hp
  · rw [← enterResting_eq_entered]
    exact forall_mem_execWith_eq (by simp [State.TakesAs, State.classOf, escapes])
      fun c hc => (hrow c).trans (frameAckOn_other hc)

end Sys2Proof.Proofs

/-! ## Roles

What an event can make of the role of the block: it is kept or given up in Idle, and taken up in Idle by
an ESCAPE event or by `Send` (10_state.md R24, 42_initiator.md R199). -/

namespace Sys2Proof.Machine

/-- The role as it was, or given up on entering Idle. -/
def KeepsRoleOrIdles (s t : State) : Prop := t.state = .idle ∨ t.state.role = s.state.role

theorem enterTransmit_role {P : Params} {s t : State} (h : enterTransmit P s = .next t) :
    t.state.role = .initiator := by
  obtain ⟨-, bs, -, rfl⟩ := enterTransmit_next.mp h
  simp [EngineState.role]

/-- A bounded retry restarts as the initiator or gives the role up (40_engine_core.md R117). -/
theorem retry_role {P : Params} {a : RetryAction} {s t : State} (hs : s.state.role = .initiator)
    (h : retry P a s = .next t) : KeepsRoleOrIdles s t := by
  rcases retry_next h with ⟨c, u, rfl, -, rfl | ht⟩ | ⟨c, rfl⟩
  · exact .inr (by rw [hs, enterBidSend_state]; rfl)
  · exact .inr ((enterTransmit_role ht).trans hs.symm)
  · exact .inl rfl

/-- ChecksumCheck resyncs as the responder or gives the role up (41_responder.md R166). -/
theorem enterChecksumCheck_role {P : Params} {s t : State} (h : enterChecksumCheck P s = .next t) :
    t.state = .idle ∨ t.state.role = .responder := by
  obtain ⟨bs, -, rfl⟩ := enterChecksumCheck_next.mp h
  split
  · exact .inl rfl
  · exact .inr (by simp [EngineState.role])

/-- A transition rule keeps the role or gives it up, except that an ESCAPE event in Idle makes the block
the responder (41_responder.md R140). -/
theorem transition_role {P : Params} {c : EventClass} {s t : State}
    (h : transition P c s = .next t) :
    KeepsRoleOrIdles s t ∨ (s.state = .idle ∧ c = .escape ∧ t.state.role = .responder) := by
  apply transition_next_induct (h := h)
  case stays => exact .inl (.inr rfl)
  case enters => exact fun S _ _ _ hrole _ _ _ _ _ => .inl (.inr (by simpa using hrole))
  case bidden => exact fun hs hc => .inr ⟨hs, hc, by simp [EngineState.role]⟩
  case acks => rintro (hs | hs) <;> exact .inl (.inr (by simp [EngineState.role, hs]))
  case naks => exact fun hs => .inl (.inr (by rw [hs, nakAndResync_state]; rfl))
  case idles | completes => exact fun _ => .inl (.inl rfl)
  case aborts => exact fun _ => .inl (.inl (by simp))
  case rebids => exact fun hs => .inl (.inr (by simp [EngineState.role, hs]))
  case transmits =>
    intro hs t ht
    have hrole : s.state.role = .initiator := by rw [hs]; rfl
    exact .inl (.inr ((enterTransmit_role ht).trans hrole.symm))
  case retries => exact fun hs _ a t ht => .inl (retry_role hs ht)
  case lengths =>
    intro hs v t _ ht
    obtain ⟨lb, -, ⟨-, rfl⟩ | ⟨-, rfl⟩⟩ := lengthByte_next ht
    · exact .inl (.inr rfl)
    · refine .inl (.inr ?_)
      split <;> simp [EngineState.role, hs]
  case payloads =>
    intro hs v t _ ht
    obtain ⟨-, rfl⟩ := payloadByte_next.mp ht
    split
    · exact .inl (.inr (by simp [EngineState.role, hs]))
    · exact .inl (.inr rfl)
  case checks =>
    intro hs v t _ ht
    have hrole : s.state.role = .responder := by rw [hs]; rfl
    obtain ⟨cb, -, ⟨-, rfl⟩ | ⟨-, ht⟩⟩ := checksumByte_next ht
    · exact .inl (.inr rfl)
    · exact .inl ((enterChecksumCheck_role ht).imp_right fun hr => hr.trans hrole.symm)

/-- What an event can make of the role: `Send` in Idle makes the block the initiator (R122). -/
theorem execWith_role {P : Params} {i : Instr} {s t : State} (h : execWith P i s = .next t) :
    KeepsRoleOrIdles s t ∨
      (s.state = .idle ∧ Instr.isEscape i = true ∧ t.state.role = .responder) ∨
      (s.state = .idle ∧ (∃ p, i = .send p) ∧ t.state.role = .initiator) := by
  apply execWith_next_induct (h := h)
  case stays => exact .inl (.inr rfl)
  case faults => exact fun c _ => .inl (.inr rfl)
  case sends => exact fun p hi hs _ => .inr (.inr ⟨hs, ⟨p, hi⟩, by simp [EngineState.role]⟩)
  case transits =>
    intro c t hescape _ _ _ _ ht
    exact (transition_role ht).imp_right fun ⟨hs, hc, hrole⟩ => .inl ⟨hs, hescape hc, hrole⟩

/-- Out of Idle an event that keeps the role or gives it up takes none up. -/
theorem KeepsRoleOrIdles.role_eq_none {s t : State} (h : KeepsRoleOrIdles s t)
    (hs : s.state = .idle) : t.state.role = .none := by
  rcases h with ht | hrole
  · rw [ht]; rfl
  · rw [hrole, hs]; rfl

end Sys2Proof.Machine

namespace Sys2Proof.Proofs

open Sys2Proof Sys2Proof.Machine Sys2Proof.Statements

theorem mem_escapes_of_isEscape {i : Instr} (h : Instr.isEscape i = true) : i ∈ escapes := by
  cases i
  case lineBidByte1 | frameStartEscape | frameEndEscape => simp [escapes]
  all_goals cases h

/-- Settles O40: only the ESCAPE arm of Idle and `Send` take a role up. -/
theorem rolesChangeOnlyThroughIdle : Obligations.RolesChangeOnlyThroughIdle := by
  unfold Obligations.RolesChangeOnlyThroughIdle
  intro P i s t h
  rcases execWith_role h with hkept | ⟨hidle, hescape, hrole⟩ | ⟨hidle, hsend, hrole⟩
  · refine ⟨fun _ => hkept, fun hs ht => ?_, fun hs ht => ?_⟩
    · exact absurd (ht.symm.trans (hkept.role_eq_none hs)) (by decide)
    · exact absurd (ht.symm.trans (hkept.role_eq_none hs)) (by decide)
  · refine ⟨fun hs => absurd hidle hs, fun _ ht => ?_, fun _ _ => mem_escapes_of_isEscape hescape⟩
    exact absurd (ht.symm.trans hrole) (by decide)
  · refine ⟨fun hs => absurd hidle hs, fun _ _ => hsend, fun _ ht => ?_⟩
    exact absurd (ht.symm.trans hrole) (by decide)

end Sys2Proof.Proofs

/-! ## Exchanges of the initiator

A cycle from `Send` to its status, one lemma per event or script item that moves it on, composed into
the sequences of the statements (42_initiator.md R200, 30_encoding.md R99, R100). -/

namespace Sys2Proof.Machine

open Sys2Proof.Statements

/-! ### Sequences -/

theorem execSeq_cons {P : Params} {i : Instr} {s u : State} (hfault : s.fault = 0)
    (h : execWith P i s = .next u) (is : List Instr) : execSeq P (i :: is) s = execSeq P is u := by
  rw [execSeq, if_neg (not_not.mpr hfault), h]

theorem execSeq_singleton {P : Params} {s : State} (hfault : s.fault = 0) (i : Instr) :
    execSeq P [i] s = execWith P i s := by
  rw [execSeq, if_neg (not_not.mpr hfault)]
  cases execWith P i s <;> rfl

/-- A faulted block takes no event (60_exceptions.md R234). -/
theorem execSeq_faulted {P : Params} {s : State} (hfault : s.fault ≠ 0) (is : List Instr) :
    execSeq P is s = .next s := by
  cases is with
  | nil => rfl
  | cons i is => exact if_pos hfault

/-- A sequence is its first part and then the rest from where that leads. -/
theorem execSeq_append {P : Params} {is : List Instr} {s u : State} (h : execSeq P is s = .next u)
    (js : List Instr) : execSeq P (is ++ js) s = execSeq P js u := by
  induction is generalizing s with
  | nil => cases h; rfl
  | cons i is ih =>
    by_cases hfault : s.fault = 0
    · cases hi : execWith P i s with
      | next v =>
        rw [execSeq_cons hfault hi] at h
        rw [List.cons_append, execSeq_cons hfault hi, ih h]
      | fault f => simp [execSeq, hfault, hi] at h
      | refused r => simp [execSeq, hfault, hi] at h
    · rw [execSeq_faulted hfault] at h
      cases h
      rw [execSeq_faulted hfault, execSeq_faulted hfault]

theorem runScript_cons {P : Params} {it : ScriptItem} {s u : State} (h : runItem P it s = .next u)
    (its : List ScriptItem) : runScript P (it :: its) s = runScript P its u := by
  rw [runScript, h]

theorem scriptFire_of_enabled {s : State} (h : fireEnabled s = true) :
    scriptFire s = { s with dlFired := true } := if_pos h

/-! ### A cycle on its way -/

/-- An initiator cycle for the payload `p` has come to `S` with these counters, the Deadline running and
the effects `es` emitted. -/
structure State.InCycle (P : Params) (p : Bytes) (S : EngineState) (c0 c1 : BitVec 2)
    (es : List Effect) (s : State) : Prop where
  state_eq : s.state = S
  c0_eq : s.c0 = c0
  c1_eq : s.c1 = c1
  unfaulted : s.fault = 0
  armed : s.dlArmed = true
  unfired : s.dlFired = false
  pending : Pending P s p
  effects_eq : s.effects = es

/-- `Send` in Idle begins a cycle with its bid (40_engine_core.md R122). -/
theorem send_begins_cycle {P : Params} {s : State} {p : Bytes} (hs : s.state = .idle)
    (hfault : s.fault = 0) (hp : p.length ≤ P.maxTxLen.val) :
    ∃ t, execSeq P [.send p] s = .next t ∧
      t.InCycle P p .bidAckWait s.c0 s.c1 (s.effects ++ [.sendBytes (bidSeq P)]) := by
  refine ⟨_, (execSeq_singleton hfault _).trans (execWith_send_idle hs hp), ?_⟩
  have hlen : p.length < 2 ^ 16 := Nat.lt_of_le_of_lt hp P.maxTxLen.isLt
  constructor
  case pending =>
    refine ⟨by simp, ?_, hp, fun n hn => ?_⟩
    · simp only [enterBidSend_pfLen, storePending_pfLen, BitVec.toNat_ofNat,
        Nat.mod_eq_of_lt hlen]
    · have hread := storedFromZero_writeSeq s.pfBytes p n
      simp only [enterBidSend_pfBytes, storePending_pfBytes, hread]
      simp [hn]
  all_goals simp [hfault]

namespace State.InCycle

variable {P : Params} {p : Bytes} {S : EngineState} {c0 c1 : BitVec 2} {es : List Effect} {s : State}

/-- An entry to a state that arms the Deadline keeps the cycle on its way. -/
theorem after_entered (h : s.InCycle P p S c0 c1 es) {S' : EngineState} (harms : armsIn P S' = true)
    (es' : List Effect) : (entered P S' es' s).InCycle P p S' c0 c1 (es ++ es') :=
  { h with
    state_eq := rfl
    armed := harms
    unfired := rfl
    effects_eq := congrArg (· ++ es') h.effects_eq }

theorem after_bumped_c0 (h : s.InCycle P p S c0 c1 es) :
    (bumped .c0 s).InCycle P p S (c0 + 1) c1 es :=
  { h with c0_eq := congrArg (· + 1) h.c0_eq }

theorem after_bumped_c1 (h : s.InCycle P p S c0 c1 es) :
    (bumped .c1 s).InCycle P p S c0 (c1 + 1) es :=
  { h with c1_eq := congrArg (· + 1) h.c1_eq }

/-! ### Replies, each after its escape -/

/-- The reply that follows an ESCAPE event is taken in the state the escape enters. -/
theorem execSeq_reply (h : s.InCycle P p S c0 c1 es) {e i : Instr} {S' : EngineState}
    (hescape : execWith P e s = .next (entered P S' [] s)) (harms : armsIn P S' = true) :
    ∃ u, u.InCycle P p S' c0 c1 es ∧ execSeq P [e, i] s = execWith P i u := by
  have hu : (entered P S' [] s).InCycle P p S' c0 c1 es := by
    simpa using h.after_entered harms []
  exact ⟨_, hu, (execSeq_cons h.unfaulted hescape [i]).trans (execSeq_singleton hu.unfaulted i)⟩

theorem execSeq_bidReply (h : s.InCycle P p .bidAckWait c0 c1 es) {e : Instr} (he : e ∈ escapes)
    (i : Instr) : ∃ u, u.InCycle P p .bidAck c0 c1 es ∧ execSeq P [e, i] s = execWith P i u := by
  obtain ⟨-, hrow⟩ := Proofs.bidAckWaitRow
  obtain ⟨hescape, -⟩ := hrow P s h.state_eq
  exact h.execSeq_reply (hescape e he) rfl

theorem execSeq_frameReply (h : s.InCycle P p .frameAckWait c0 c1 es) {e : Instr} (he : e ∈ escapes)
    (i : Instr) : ∃ u, u.InCycle P p .frameAck c0 c1 es ∧ execSeq P [e, i] s = execWith P i u := by
  obtain ⟨-, hrow⟩ := Proofs.frameAckWaitRow
  obtain ⟨hescape, -⟩ := hrow P s h.state_eq
  exact h.execSeq_reply (hescape e he) rfl

/-- An acknowledged bid sends the payload (42_initiator.md R187). -/
theorem bid_acked (h : s.InCycle P p .bidAckWait c0 c1 es) {e : Instr} (he : e ∈ escapes) :
    ∃ t, execSeq P [e, .ackByte] s = .next t ∧
      t.InCycle P p .frameAckWait c0 c1 (es ++ [.sendBytes p]) := by
  obtain ⟨u, hu, hreply⟩ := h.execSeq_bidReply he .ackByte
  obtain ⟨-, hrow⟩ := Proofs.bidAckRow
  obtain ⟨-, hack, -⟩ := hrow P u hu.state_eq
  exact ⟨_, hreply.trans (hack p hu.pending), hu.after_entered rfl _⟩

/-- An acknowledged frame completes the cycle (R195). -/
theorem frame_acked (h : s.InCycle P p .frameAckWait c0 c1 es) {e : Instr} (he : e ∈ escapes) :
    ∃ t, execSeq P [e, .ackByte] s = .next t ∧ t.state = .idle ∧
      t.effects = es ++ [.status .transmissionComplete] := by
  obtain ⟨u, hu, hreply⟩ := h.execSeq_frameReply he .ackByte
  obtain ⟨-, hrow⟩ := Proofs.frameAckRow
  obtain ⟨-, hack, -⟩ := hrow P u hu.state_eq
  exact ⟨_, hreply.trans hack, rfl, congrArg (· ++ [_]) hu.effects_eq⟩

/-- A nakked frame below the cap is sent again (R196). -/
theorem frame_nakked (h : s.InCycle P p .frameAckWait c0 c1 es) {e : Instr} (he : e ∈ escapes)
    (hcap : c1 < 2) :
    ∃ t, execSeq P [e, .nakByte] s = .next t ∧
      t.InCycle P p .frameAckWait c0 (c1 + 1) (es ++ [.sendBytes p]) := by
  obtain ⟨u, hu, hreply⟩ := h.execSeq_frameReply he .nakByte
  obtain ⟨hrestart, -⟩ := execWith_nak_retriesPayload hu.state_eq hu.pending
  have hbelow : valueOf .c1 u < 2 := by rwa [valueOf, hu.c1_eq]
  exact ⟨_, hreply.trans (hrestart hbelow), hu.after_bumped_c1.after_entered rfl _⟩

/-! ### Timeouts -/

/-- `TIMEOUT` of a script is a lost reply to the bid: it fires the Deadline that is running, and its word
is of the current arming (30_encoding.md R100). -/
theorem bid_timeout_retries (h : s.InCycle P p .bidAckWait c0 c1 es) :
    Retries P .c0 .bidAckWait [.sendBytes (bidSeq P)] s (runItem P .timeoutNow s) := by
  have hfire : scriptFire s = { s with dlFired := true } :=
    scriptFire_of_enabled ((fireEnabled_iff s).mpr ⟨h.armed, h.unfired, h.unfaulted⟩)
  have hlost : LostReply (.timeout s.dlTag) { s with dlFired := true } :=
    .inr ⟨s.dlTag, rfl, h.armed, rfl, rfl⟩
  obtain ⟨-, hrow⟩ := Proofs.bidAckWaitRow
  obtain ⟨-, hretries⟩ := hrow P { s with dlFired := true } h.state_eq
  have hitem : runItem P .timeoutNow s =
      execWith P (.timeout s.dlTag) { s with dlFired := true } := by
    rw [runItem, hfire]
    exact execSeq_singleton (s := { s with dlFired := true }) h.unfaulted _
  rw [hitem]
  exact hretries _ hlost

/-- Below the cap the bid is sent again (42_initiator.md R184). -/
theorem bid_timed_out (h : s.InCycle P p .bidAckWait c0 c1 es) (hcap : c0 < 2) :
    ∃ t, runItem P .timeoutNow s = .next t ∧
      t.InCycle P p .bidAckWait (c0 + 1) c1 (es ++ [.sendBytes (bidSeq P)]) := by
  obtain ⟨hrestart, -⟩ := h.bid_timeout_retries
  have hbelow : valueOf .c0 s < 2 := by rwa [valueOf, h.c0_eq]
  exact ⟨_, hrestart hbelow, h.after_bumped_c0.after_entered rfl _⟩

/-- At the cap the cycle fails, and its entry to Idle leaves nothing of it (40_engine_core.md R115,
R117). -/
theorem bid_fails (h : s.InCycle P p .bidAckWait 2 c1 es) :
    ∃ t, runItem P .timeoutNow s = .next t ∧ t.state = .idle ∧ t.c0 = 0 ∧ t.c1 = 0 ∧
      t.pfValid = false ∧ t.effects = es ++ [.status .transmissionFailure] := by
  obtain ⟨-, hfails⟩ := h.bid_timeout_retries
  exact ⟨_, hfails h.c0_eq, rfl, rfl, rfl, rfl, congrArg (· ++ [_]) h.effects_eq⟩

end State.InCycle

end Sys2Proof.Machine

namespace Sys2Proof.Proofs

open Sys2Proof Sys2Proof.Machine Sys2Proof.Statements

/-- Settles O52: the bid, its acknowledge and the frame's, one after the other. -/
theorem correctRepliesSendThePayloadOnce : Obligations.CorrectRepliesSendThePayloadOnce := by
  unfold Obligations.CorrectRepliesSendThePayloadOnce
  intro P s p e e' he he' hs hfault hp
  obtain ⟨t₁, hsend, h₁⟩ := send_begins_cycle hs hfault hp
  obtain ⟨t₂, hbid, h₂⟩ := h₁.bid_acked he
  obtain ⟨t, hframe, hidle, heff⟩ := h₂.frame_acked he'
  refine ⟨t, ?_, hidle, by simp [heff, bidSeq]⟩
  calc execSeq P ([.send p] ++ ([e, .ackByte] ++ [e', .ackByte])) s
      = execSeq P ([e, .ackByte] ++ [e', .ackByte]) t₁ := execSeq_append hsend _
    _ = execSeq P [e', .ackByte] t₂ := execSeq_append hbid _
    _ = .next t := hframe

/-- Settles O53: from counters that are 0 in Idle, two timeouts re-send the bid and the third one fails. -/
theorem timeoutsGiveThreeBidsAndOneFailure : Obligations.TimeoutsGiveThreeBidsAndOneFailure := by
  unfold Obligations.TimeoutsGiveThreeBidsAndOneFailure
  intro P s p hinv hs hfault hp
  obtain ⟨hc0, -⟩ := hinv.idle_counters hs
  obtain ⟨t₁, hsend, h₁⟩ := send_begins_cycle hs hfault hp
  rw [hc0] at h₁
  obtain ⟨t₂, hfirst, h₂⟩ := h₁.bid_timed_out (by decide)
  obtain ⟨t₃, hsecond, h₃⟩ := h₂.bid_timed_out (by decide)
  obtain ⟨t, hthird, hidle, hc0', hc1', hnone, heff⟩ := h₃.bid_fails
  refine ⟨t, ?_, hidle, hc0', hc1', hnone, by simp [heff, bidSeq]⟩
  rw [runScript_cons (it := .event (.send p)) hsend, runScript_cons hfirst, runScript_cons hsecond,
    runScript_cons hthird]
  rfl

/-- Settles O54: from counters that are 0 in Idle, both naks are below the cap of `c1`. -/
theorem twoNaksThenAckResendTwice : Obligations.TwoNaksThenAckResendTwice := by
  unfold Obligations.TwoNaksThenAckResendTwice
  intro P s p hinv hs hfault hp
  have hescape : Instr.frameStartEscape ∈ escapes := by decide
  obtain ⟨-, hc1⟩ := hinv.idle_counters hs
  obtain ⟨t₁, hsend, h₁⟩ := send_begins_cycle hs hfault hp
  rw [hc1] at h₁
  obtain ⟨t₂, hbid, h₂⟩ := h₁.bid_acked hescape
  obtain ⟨t₃, hfirst, h₃⟩ := h₂.frame_nakked hescape (by decide)
  obtain ⟨t₄, hsecond, h₄⟩ := h₃.frame_nakked hescape (by decide)
  obtain ⟨t, hack, hidle, heff⟩ := h₄.frame_acked hescape
  refine ⟨t, ?_, hidle, by simp [heff, bidSeq]⟩
  rw [runScript_cons (it := .event (.send p)) hsend, runScript_cons (it := .ackSeq) hbid,
    runScript_cons (it := .nakSeq) hfirst, runScript_cons (it := .nakSeq) hsecond,
    runScript_cons (it := .ackSeq) hack]
  rfl

end Sys2Proof.Proofs

/-! ## A valid timeout

What a valid `Timeout` makes of the Deadline: outside Idle its arm always leaves the arming it came from
(43_event_instructions.md R220). -/

namespace Sys2Proof.Machine

open Sys2Proof.Statements

/-- A valid `Timeout` passes the check of R119 and is the transition of its class. -/
theorem execWith_timeout_valid {P : Params} {t : Nat} {s : State} (h : ValidTimeout t s) :
    execWith P (.timeout t) s = transition P .timeout s :=
  if_pos ((timeoutValid_iff t s).mpr h)

/-- The TIMEOUT arms: outside Idle none of them stays (43_event_instructions.md R222). -/
theorem transition_timeout_next {P : Params} {s t : State} (hs : s.state ≠ .idle)
    (h : transition P .timeout s = .next t) :
    t = abortWithNak P s ∨ t = idleEntry s ∨ t = nakAndResync P s ∨
      ∃ a, retry P a s = .next t := by
  cases hstate : s.state
  case idle => exact absurd hstate hs
  case bidWait =>
    rw [transition_bidWait P .timeout s hstate] at h
    cases h
    exact .inl rfl
  case frameSync =>
    rw [transition_frameSync P .timeout s hstate] at h
    cases h
    exact .inr (.inl rfl)
  case frameStart | lengthField | payload | frameEndEscape | frameEnd | checksum =>
    simp only [transition, hstate] at h
    cases h
    exact .inr (.inr (.inl rfl))
  case bidAckWait | bidAck | frameAckWait | frameAck =>
    rw [transition_lost (by rw [hstate]; rfl) (.inr rfl)] at h
    exact .inr (.inr (.inr ⟨_, h⟩))
  case checksumCheck | bidSend | transmit =>
    rw [transition_transient P .timeout s (by rw [hstate]; rfl)] at h
    cases h

/-- A bounded retry enters a state whether it restarts or gives up, so it clears `dl_fired`
(40_engine_core.md R115, R117, R118). -/
theorem retry_dlFired {P : Params} {a : RetryAction} {s t : State} (h : retry P a s = .next t) :
    t.dlFired = false := by
  rcases retry_next h with ⟨c, u, -, -, rfl | ht⟩ | ⟨c, rfl⟩
  · exact enterBidSend_dlFired P u
  · obtain ⟨-, bs, -, rfl⟩ := enterTransmit_next.mp ht
    exact enterResting_dlFired ..
  · exact idleEntry_dlFired _

/-- A valid `Timeout` outside Idle enters a state, so it clears `dl_fired`. -/
theorem transition_timeout_dlFired {P : Params} {s t : State} (hs : s.state ≠ .idle)
    (h : transition P .timeout s = .next t) : t.dlFired = false := by
  rcases transition_timeout_next hs h with rfl | rfl | rfl | ⟨a, hretry⟩
  · exact abortWithNak_dlFired P s
  · exact idleEntry_dlFired s
  · exact nakAndResync_dlFired P s
  · exact retry_dlFired hretry

end Sys2Proof.Machine

namespace Sys2Proof.Proofs

open Sys2Proof Sys2Proof.Machine Sys2Proof.Statements

/-- Settles O19: the answer's `dl_fired` is clear, so the same word is stale there; it was set, so the
Deadline was written, which disarms it or arms it under the next tag (O20). -/
theorem validTimeoutIsSpent : Obligations.ValidTimeoutIsSpent := by
  unfold Obligations.ValidTimeoutIsSpent
  intro P s t g hs hvalid h
  have hclear : t.dlFired = false :=
    transition_timeout_dlFired hs ((execWith_timeout_valid hvalid).symm.trans h)
  constructor
  · rcases eventsMoveTheDeadlineOneArming P (.timeout g) s t h with
      ⟨-, -, hkept⟩ | ⟨hdisarmed, -, -⟩ | ⟨-, htag, -⟩
    · obtain ⟨-, hset, -⟩ := hvalid
      exact absurd (hclear.symm.trans (hkept.trans hset)) Bool.false_ne_true
    · exact .inl hdisarmed
    · exact .inr (htag ▸ add_mod_ne_self Nat.one_pos (Nat.one_lt_two_pow P.tagW_pos.ne'))
  · exact execWith_timeout_stale fun ⟨_, hset, _⟩ =>
      Bool.false_ne_true (hclear.symm.trans hset)

end Sys2Proof.Proofs

/-! ## The agents around the engine

What a move of the Deadline, of a producer or of RESET answers, and what is left of the engine and of the
Deadline once the block is faulted (60_exceptions.md R234, R237, R238). -/

namespace Sys2Proof.Machine

open Sys2Proof.Statements

/-! ### One move of one agent (log entry 11) -/

theorem stepWith_offers {P : Params} {s : State} {q : QueuedWord} {ms : List Move}
    (h : s.sched = .offer q :: ms) : stepWith P s = .next (offerWord q { s with sched := ms }) := by
  simp only [stepWith, stepBy, h]

theorem stepWith_resets {P : Params} {s : State} {ms : List Move} (h : s.sched = .reset :: ms) :
    stepWith P s = .next (assertReset { s with sched := ms }) := by
  simp only [stepWith, stepBy, h]

/-! ### The Deadline's move (60_exceptions.md R238) -/

/-- The word `FIRE` appends is the one a host offers for the `Timeout` of the current tag (30_encoding.md
R87). -/
theorem stepWith_fires_of_enabled {P : Params} {s : State} {ms : List Move}
    (h : s.sched = .fire :: ms) (henabled : fireEnabled s = true) :
    stepWith P s = .next
      { s with
        sched := ms
        dlFired := true
        fifo := s.fifo ++ [encode P.tagW (.timeout s.dlTag)] } := by
  simp only [stepWith, stepBy, h]
  exact congrArg Host.Outcome.next (if_pos henabled)

theorem stepWith_fires_of_disabled {P : Params} {s : State} {ms : List Move}
    (h : s.sched = .fire :: ms) (hdisabled : s.dlArmed = false ∨ s.dlFired = true ∨ s.fault ≠ 0) :
    stepWith P s = .next { s with sched := ms } := by
  have hnot : ¬ fireEnabled s = true := fun henabled => by
    obtain ⟨harmed, hfired, hfault⟩ := (fireEnabled_iff s).mp henabled
    simp [harmed, hfired, hfault] at hdisabled
  simp only [stepWith, stepBy, h]
  exact congrArg Host.Outcome.next (if_neg hnot)

/-! ### A faulted block (60_exceptions.md R234) -/

theorem stepWith_takes_of_faulted {P : Params} {s : State} {ms : List Move} (hfault : s.fault ≠ 0)
    (h : (s.sched = [] ∧ ms = []) ∨ s.sched = .deliver :: ms) :
    stepWith P s = .next { s with sched := ms } :=
  (stepWith_takes h).trans (takeWord_stays (.inl hfault))

/-- Only RESET moves a register of a faulted block: any other move leaves all but the path and the moves
to come. -/
theorem stepWith_of_faulted (P : Params) {s : State} (hfault : s.fault ≠ 0)
    (hreset : Move.reset ∉ s.sched) :
    ∃ fifo sched, stepWith P s = .next { s with fifo := fifo, sched := sched } ∧
      Move.reset ∉ sched := by
  cases hsched : s.sched with
  | nil =>
    exact ⟨s.fifo, [], stepWith_takes_of_faulted hfault (.inl ⟨hsched, rfl⟩), List.not_mem_nil⟩
  | cons m ms =>
    rw [hsched, List.mem_cons, not_or] at hreset
    obtain ⟨hm, hms⟩ := hreset
    cases m with
    | deliver => exact ⟨s.fifo, ms, stepWith_takes_of_faulted hfault (.inr hsched), hms⟩
    | offer q => exact ⟨s.fifo ++ [q], ms, stepWith_offers hsched, hms⟩
    | fire => exact ⟨s.fifo, ms, stepWith_fires_of_disabled hsched (.inr (.inr hfault)), hms⟩
    | reset => exact absurd rfl hm

theorem runWith_of_faulted (P : Params) (n : Nat) {s : State} (hfault : s.fault ≠ 0)
    (hreset : Move.reset ∉ s.sched) :
    ∃ fifo sched, runWith P n s = .next { s with fifo := fifo, sched := sched } := by
  induction n generalizing s with
  | zero => exact ⟨s.fifo, s.sched, rfl⟩
  | succ n ih =>
    obtain ⟨fifo, sched, hstep, hrest⟩ := stepWith_of_faulted P hfault hreset
    obtain ⟨fifo', sched', hrun⟩ := ih (s := { s with fifo := fifo, sched := sched }) hfault hrest
    exact ⟨fifo', sched', runWith_succ_next.mpr ⟨_, hstep, hrun⟩⟩

end Sys2Proof.Machine

namespace Sys2Proof.Proofs

open Sys2Proof Sys2Proof.Machine Sys2Proof.Statements

/-- Settles O59: the run's last state has the registers and the effects of the first, its fault register
among them. -/
theorem faultedRunStaysFaulted : Obligations.FaultedRunStaysFaulted := by
  unfold Obligations.FaultedRunStaysFaulted
  intro P n start s hfault hreset
  obtain ⟨fifo, sched, hrun⟩ := runWith_of_faulted P n hfault hreset
  refine ⟨_, hrun, rfl, ?_⟩
  rw [hrun]
  exact outcomeOf_faulted hfault

/-- Settles O32: the moves of a faulted block, one by one. -/
theorem faultedBlockTakesNoStep : Obligations.FaultedBlockTakesNoStep := by
  unfold Obligations.FaultedBlockTakesNoStep
  refine .of_forall fun P s hfault => ⟨fun hnil => ?_, fun ms =>
    ⟨fun hdeliver => stepWith_takes_of_faulted hfault (.inr hdeliver),
      fun hfire => stepWith_fires_of_disabled hfire (.inr (.inr hfault)),
      fun q hoffer => stepWith_offers hoffer,
      fun hreset => ⟨_, stepWith_resets hreset, rfl⟩⟩⟩
  rw [stepWith_takes_of_faulted hfault (.inl ⟨hnil, rfl⟩), ← hnil]

/-- Settles O33: the word is that of the current `Timeout`, whose fields are those it is assembled
from. -/
theorem fireAppendsTheTimeoutWord : Obligations.FireAppendsTheTimeoutWord := by
  unfold Obligations.FireAppendsTheTimeoutWord
  refine .of_forall fun P s ms hsched =>
    ⟨fun htag harmed hfired hfault => ?_, stepWith_fires_of_disabled hsched⟩
  refine ⟨encodeWord P.tagW (.timeout s.dlTag), ?tag, EventWord.data_assemble ..,
    EventWord.rsv_assemble .., EventWord.code_assemble ..,
    stepWith_fires_of_enabled hsched ((fireEnabled_iff s).mpr ⟨harmed, hfired, hfault⟩)⟩
  calc (encodeWord P.tagW (.timeout s.dlTag)).tag.toNat
      = (BitVec.ofNat P.tagW s.dlTag).toNat := congrArg BitVec.toNat (EventWord.tag_assemble ..)
    _ = s.dlTag := by rw [BitVec.toNat_ofNat, Nat.mod_eq_of_lt htag]

/-- Settles O34: the word `FIRE` leaves at the head of the empty path decodes to the `Timeout` of the
current tag. -/
theorem firedTimeoutIsValidWhenDeliveredNext :
    Obligations.FiredTimeoutIsValidWhenDeliveredNext := by
  unfold Obligations.FiredTimeoutIsValidWhenDeliveredNext
  refine .of_forall fun P s ms hsched hfifo htag harmed hfired hfault => ?_
  have henabled : fireEnabled s = true := (fireEnabled_iff s).mpr ⟨harmed, hfired, hfault⟩
  refine ⟨_, stepWith_fires_of_enabled hsched henabled, ?_, harmed, rfl, rfl⟩
  have hhead : s.fifo ++ [encode P.tagW (.timeout s.dlTag)] =
      encode P.tagW (.timeout s.dlTag) :: s.fifo := by rw [hfifo, List.nil_append]
  rw [stepWith_takes (.inr rfl)]
  exact takeWord_runs hfault hhead (decodeQueued_encode htag)

/-- Settles O35: the move of a producer. -/
theorem offeredWordJoinsTheTail : Obligations.OfferedWordJoinsTheTail := by
  unfold Obligations.OfferedWordJoinsTheTail
  exact .of_forall fun P s q ms hsched => stepWith_offers hsched

end Sys2Proof.Proofs

/-! ## The Translator's word

The event of each control code and of any other byte, outside the collecting states (60_exceptions.md
R247). -/

namespace Sys2Proof.Machine

open Sys2Proof.Statements

theorem EscapeCode.event_mem_escapes (e : EscapeCode) : e.event ∈ escapes := by
  cases e <;> decide

theorem translateByte_bidCode {P : Params} (hP : CodesDistinct P) (e : EscapeCode) :
    translateByte P false e P.bidCode = .lineBidByte2 := by
  simp only [CodesDistinct, controlCodes, List.nodup_cons, List.mem_cons, not_or] at hP
  obtain ⟨⟨hesc, -⟩, -⟩ := hP
  simp [translateByte, Ne.symm hesc]

theorem translateByte_ackCode {P : Params} (hP : CodesDistinct P) (e : EscapeCode) :
    translateByte P false e P.ackCode = .ackByte := by
  simp only [CodesDistinct, controlCodes, List.nodup_cons, List.mem_cons, not_or] at hP
  obtain ⟨⟨-, hesc, -⟩, ⟨hbid, -⟩, ⟨-, hstart, hend, -⟩, -⟩ := hP
  simp [translateByte, Ne.symm hesc, Ne.symm hbid, hstart, hend]

theorem translateByte_nakCode {P : Params} (hP : CodesDistinct P) (e : EscapeCode) :
    translateByte P false e P.nakCode = .nakByte := by
  simp only [CodesDistinct, controlCodes, List.nodup_cons, List.mem_cons, not_or] at hP
  obtain ⟨⟨-, -, hesc, -⟩, ⟨-, hbid, -⟩, ⟨hack, -⟩, ⟨hstart, hend, -⟩, -⟩ := hP
  simp [translateByte, Ne.symm hesc, Ne.symm hbid, Ne.symm hack, hstart, hend]

theorem translateByte_other {P : Params} {b : Byte} (hb : b ∉ controlCodes P) (e : EscapeCode) :
    translateByte P false e b = .dataByte b := by
  simp only [controlCodes, List.mem_cons, List.not_mem_nil, or_false, not_or] at hb
  obtain ⟨hesc, hbid, hack, hnak, hstart, hend⟩ := hb
  simp [translateByte, hesc, hbid, hack, hnak, hstart, hend]

/-- An arrival's word decodes to the event the Translator gives: it carries no tag. -/
theorem decodeQueued_translateArrival (P : Params) (collecting : Bool) (a : LineArrival) :
    decodeQueued P.tagW (encode P.tagW (translateArrival P collecting a)) =
      .ok (translateArrival P collecting a) := by
  obtain ⟨htag, -, -⟩ := translateArrival_offers P collecting a
  exact decodeQueued_encode (htag ▸ Nat.two_pow_pos P.tagW)

end Sys2Proof.Machine

namespace Sys2Proof.Proofs

open Sys2Proof Sys2Proof.Machine Sys2Proof.Statements

/-- Settles O57: the word is that of the arrival's event, which the Translator chooses by `collecting`
and by the control codes. -/
theorem translatorAppendsOneWord : Obligations.TranslatorAppendsOneWord := by
  unfold Obligations.TranslatorAppendsOneWord
  rintro P s ⟨input, e⟩ hP
  refine ⟨_, _, translatorStep_eq P ⟨input, e⟩ s, (encodeWord P.tagW _).isLt,
    decodeQueued_translateArrival P s.collecting ⟨input, e⟩, ?fault, ?byte⟩
  case fault =>
    rintro rfl
    rfl
  case byte =>
    rintro b rfl
    obtain ⟨-, -, -, houtputs⟩ := statusOutputsFollowTheState
    obtain ⟨-, -, hcollecting, -⟩ := houtputs s
    rw [← hcollecting]
    cases s.collecting with
    | true => exact ⟨fun _ => translateByte_collecting P e b, fun h => absurd rfl h⟩
    | false =>
      refine ⟨nofun, fun _ => ⟨?esc, ?bid, ?startMark, ?endMark, ?ack, ?nak,
        fun hb => translateByte_other hb e⟩⟩
      case esc =>
        rintro rfl
        change translateByte P false e P.escCode ∈ escapes
        rw [translateByte_escCode]
        exact e.event_mem_escapes
      case bid => rintro rfl; exact translateByte_bidCode hP e
      case startMark => rintro rfl; exact translateByte_startCode hP e
      case endMark => rintro rfl; exact translateByte_endCode hP e
      case ack => rintro rfl; exact translateByte_ackCode hP e
      case nak => rintro rfl; exact translateByte_nakCode hP e

end Sys2Proof.Proofs

/-! ## Runs from reset

Every move of a run answers, and each one of an unfaulted block uses up one of the moves and words that
were left, so a run comes to its end or to a fault (70_reset_and_hazards.md R270). -/

namespace Sys2Proof.Machine

/-! ### Runs of the invariant -/

/-- From a state of the invariant any number of moves answers a state of it (O46). -/
theorem State.Inv.runWith_answers {P : Params} {s : State} (h : s.Inv P) (n : Nat) :
    ∃ t, runWith P n s = .next t ∧ t.Inv P := by
  induction n generalizing s with
  | zero => exact ⟨s, rfl, h⟩
  | succ n ih =>
    obtain ⟨u, hu, hinv⟩ := Proofs.invariantStatesAlwaysStep P s h
    obtain ⟨t, ht, hinv'⟩ := ih hinv
    exact ⟨t, runWith_succ_next.mpr ⟨u, hu, ht⟩, hinv'⟩

/-! ### What is left of a run -/

/-- A bound on the moves that a run without RESET still makes: each decided move, each queued word, and
for each decided move the word that it may add to the path. -/
def State.workLeft (s : State) : Nat := 2 * s.sched.length + s.fifo.length

theorem workLeft_eq_zero_iff (s : State) : s.workLeft = 0 ↔ s.fifo = [] ∧ s.sched = [] := by
  simp [State.workLeft, and_comm]

/-- An unfaulted block's engine consumes the path's head, if there is one, whatever the word is
(40_engine_core.md R110, log entry 10). -/
theorem takeWord_consumes {P : Params} {s t : State} (hfault : s.fault = 0)
    (h : takeWord P (execWith P) s = .next t) : t.fifo = s.fifo.tail ∧ t.sched = s.sched := by
  rcases takeWord_cases P (execWith P) s with
    ⟨hstays, hnone⟩ | ⟨q, rest, -, hfifo, ⟨-, hraises⟩ | ⟨i, -, hruns⟩⟩
  · cases hstays.symm.trans h
    have hempty : s.fifo = [] := hnone.resolve_left (not_not.mpr hfault)
    exact ⟨by rw [hempty]; rfl, rfl⟩
  · cases hraises.symm.trans h
    exact ⟨by rw [hfifo]; rfl, rfl⟩
  · obtain ⟨-, hrest, hsched, -⟩ := Proofs.faultRegisterIsSticky P i _ t (hruns.symm.trans h)
    exact ⟨by rw [hrest, hfifo]; rfl, hsched⟩

/-- The Deadline's move adds at most one word to the path (60_exceptions.md R238). -/
theorem fireDeadline_fifo_length_le (P : Params) (s : State) :
    (fireDeadline P s).fifo.length ≤ s.fifo.length + 1 := by
  unfold fireDeadline
  split
  · simp
  · exact Nat.le_succ _

/-- A move of an unfaulted block, RESET aside, leaves less of the run. -/
theorem stepWith_workLeft {P : Params} {s t : State} (hfault : s.fault = 0)
    (hreset : Move.reset ∉ s.sched) (h : stepWith P s = .next t) : t.workLeft ≤ s.workLeft - 1 := by
  unfold State.workLeft
  rcases stepBy_cases P (execWith P) s with ⟨hnil, htake⟩ | ⟨m, ms, hms, hmove⟩
  · obtain ⟨hfifo, hsched⟩ := takeWord_consumes hfault (htake.symm.trans h)
    simp [hfifo, hsched, hnil]
  · have hlen : s.sched.length = ms.length + 1 := by rw [hms, List.length_cons]
    rcases hmove with ⟨-, htake⟩ | ⟨q, -, hoffer⟩ | ⟨-, hfire⟩ | ⟨rfl, -⟩
    · obtain ⟨hfifo, hsched⟩ : t.fifo = s.fifo.tail ∧ t.sched = ms :=
        takeWord_consumes (s := { s with sched := ms }) hfault (htake.symm.trans h)
      rw [hfifo, hsched, hlen, List.length_tail]
      omega
    · cases hoffer.symm.trans h
      simp only [offerWord_fifo, offerWord_sched, hlen, List.length_append, List.length_singleton]
      omega
    · cases hfire.symm.trans h
      have hfifo : (fireDeadline P { s with sched := ms }).fifo.length ≤ s.fifo.length + 1 :=
        fireDeadline_fifo_length_le P { s with sched := ms }
      simp only [fireDeadline_sched, hlen]
      omega
    · exact absurd (hms ▸ List.mem_cons_self) hreset

/-- A run without RESET that is long enough and has raised no fault has nothing left. -/
theorem runWith_workLeft_eq_zero {P : Params} {n : Nat} {s t : State}
    (hreset : Move.reset ∉ s.sched) (hn : s.workLeft ≤ n) (h : runWith P n s = .next t)
    (hfault : t.fault = 0) : t.workLeft = 0 := by
  induction n generalizing s with
  | zero => cases h; exact Nat.le_zero.mp hn
  | succ n ih =>
    have hclean : s.fault = 0 := by
      by_contra hfaulted
      obtain ⟨fifo, sched, hrun⟩ := runWith_of_faulted P (n + 1) hfaulted hreset
      cases hrun.symm.trans h
      exact hfaulted hfault
    obtain ⟨u, hu, hrest⟩ := runWith_succ_next.mp h
    obtain ⟨-, hreset'⟩ := stepWith_movesDeadline hreset hu
    have hless := stepWith_workLeft hclean hreset hu
    exact ih hreset' (by omega) hrest

end Sys2Proof.Machine

namespace Sys2Proof.Proofs

open Sys2Proof Sys2Proof.Machine Sys2Proof.Statements

/-- Settles O48: the state after reset is one of the invariant. -/
theorem runsFromResetNeverStop : Obligations.RunsFromResetNeverStop := by
  unfold Obligations.RunsFromResetNeverStop
  exact fun P n fifo sched => (inv_resetWithin P fifo sched).runWith_answers n

/-- Settles O58: the run answers (O48), and at its last state either the fault register tells or there is
nothing left. -/
theorem everyRunIsReported : Obligations.EveryRunIsReported := by
  unfold Obligations.EveryRunIsReported
  intro P n fifo sched hreset hn
  obtain ⟨t, hrun, -⟩ := runsFromResetNeverStop P n fifo sched
  have hresult : runResult (State.resetWithin fifo sched) t = ⟨t.effects, t, t.fault⟩ := rfl
  refine ⟨t, hrun, fun hfault => ?ended, fun hfault => ?faulted⟩
  case ended =>
    have hnone : t.workLeft = 0 := runWith_workLeft_eq_zero hreset hn hrun hfault
    obtain ⟨hfifo, hsched⟩ := (workLeft_eq_zero_iff t).mp hnone
    refine ⟨hfifo, hsched, ?_⟩
    rw [runOutcome, hrun, outcomeOf_ended hfault ((atEnd_iff t).mpr ⟨hfifo, hsched⟩), hresult,
      hfault]
  case faulted => rw [runOutcome, hrun, outcomeOf_faulted hfault, hresult]

/-- Settles O36, register by register. -/
theorem resetRestoresTheResetValues : Obligations.ResetRestoresTheResetValues := by
  unfold Obligations.ResetRestoresTheResetValues
  exact .of_forall fun P s ms hsched =>
    ⟨_, stepWith_resets hsched, rfl, rfl, rfl, rfl, rfl, rfl, rfl, rfl, rfl, rfl, rfl, rfl, rfl, rfl⟩

end Sys2Proof.Proofs

/-! ## The bounds of an initiator cycle

What a peer re-bid makes of a cycle, which has no bound, and what a bounded retry makes of it
(70_reset_and_hazards.md R272, R278). -/

namespace Sys2Proof.Machine

open Sys2Proof.Statements

/-! ### Re-bids (42_initiator.md R186) -/

/-- A re-bid in BidAck and the escape after it send the bid again and come back to BidAck, the counters
untouched. -/
theorem execSeq_rebid (P : Params) {s : State} (hs : s.state = .bidAck) (hfault : s.fault = 0) :
    ∃ t, execSeq P [.lineBidByte2, .frameStartEscape] s = .next t ∧ t.state = .bidAck ∧
      t.fault = 0 ∧ t.c0 = s.c0 ∧ t.c1 = s.c1 ∧
      t.effects = s.effects ++ [.sendBytes [P.escCode, P.bidCode]] := by
  obtain ⟨-, hbidAck⟩ := Proofs.bidAckRow
  obtain ⟨hrebid, -⟩ := hbidAck P s hs
  obtain ⟨-, hbidAckWait⟩ := Proofs.bidAckWaitRow
  let u := entered P .bidAckWait [.sendBytes [P.escCode, P.bidCode]] s
  obtain ⟨hescape, -⟩ := hbidAckWait P u rfl
  refine ⟨entered P .bidAck [] u, ?_, rfl, hfault, rfl, rfl, List.append_nil _⟩
  calc execSeq P [.lineBidByte2, .frameStartEscape] s
      = execSeq P [.frameStartEscape] u := execSeq_cons hfault hrebid _
    _ = execWith P .frameStartEscape u := execSeq_singleton (s := u) hfault _
    _ = .next (entered P .bidAck [] u) := hescape _ (by decide)

/-! ### Bounded retries (40_engine_core.md R117) -/

/-- What a bounded retry makes of a cycle (70_reset_and_hazards.md R272): its one failure status in Idle,
or one more on the counters, which have room for four. -/
def FailsOrAddsOne (s t : State) : Prop :=
  (t.state = .idle ∧ t.effects = s.effects ++ [.status .transmissionFailure]) ∨
    (t.state.role = .initiator ∧
      t.c0.toNat + t.c1.toNat = s.c0.toNat + s.c1.toNat + 1 ∧ t.c0.toNat + t.c1.toNat ≤ 4)

/-- Below the cap an increment does not wrap, and the sum of the counters stays at most 4. -/
theorem counterWrite_succ_sum {c : Counter} {s : State} (hc0 : s.c0 ≤ 2) (hc1 : s.c1 ≤ 2)
    (hcap : c.read s + 1 < Config.retryCap) :
    (c.write (c.read s + 1) s).c0.toNat + (c.write (c.read s + 1) s).c1.toNat =
        s.c0.toNat + s.c1.toNat + 1 ∧
      (c.write (c.read s + 1) s).c0.toNat + (c.write (c.read s + 1) s).c1.toNat ≤ 4 := by
  cases c <;> simp only [Counter.read, Counter.write, Config.retryCap] at hcap ⊢ <;> bv_omega

/-- A bounded retry ends the cycle or uses up one of its retries. -/
theorem retry_failsOrAddsOne {P : Params} {a : RetryAction} {s t : State} (hc0 : s.c0 ≤ 2)
    (hc1 : s.c1 ≤ 2) (h : retry P a s = .next t) : FailsOrAddsOne s t := by
  rcases retry_next h with ⟨c, u, rfl, hcap, hrestart⟩ | ⟨c, rfl⟩
  · have hsum := counterWrite_succ_sum hc0 hc1 hcap
    rcases hrestart with rfl | ht
    · exact .inr ⟨by simp [EngineState.role], by simpa using hsum⟩
    · have hrole := enterTransmit_role ht
      obtain ⟨-, bs, -, rfl⟩ := enterTransmit_next.mp ht
      exact .inr ⟨hrole, by simpa using hsum⟩
  · exact .inl ⟨rfl, by simp⟩

/-- Every resting initiator state has a bounded-retry action for a lost reply (42_initiator.md R180). -/
theorem retryAction_of_initiator {S : EngineState} (hrest : S.resting = true)
    (hrole : S.role = .initiator) : ∃ a, S.retryAction = some a := by
  cases S
  case bidAckWait | bidAck | frameAckWait | frameAck => exact ⟨_, rfl⟩
  case bidSend | transmit => cases hrest
  all_goals cases hrole

/-- A lost reply or a nak of the frame is a bounded retry in every resting initiator state. -/
theorem execWith_eq_retry {P : Params} {s : State} {i : Instr} (hrest : s.state.resting = true)
    (hrole : s.state.role = .initiator)
    (hi : LostReply i s ∨ (i = .nakByte ∧ s.state = .frameAck)) :
    ∃ a, execWith P i s = retry P a s := by
  rcases hi with hlost | ⟨rfl, hs⟩
  · obtain ⟨a, ha⟩ := retryAction_of_initiator hrest hrole
    exact ⟨a, execWith_lost ha hlost⟩
  · exact ⟨.frameAck, transition_frameAck P .nak s hs⟩

end Sys2Proof.Machine

namespace Sys2Proof.Proofs

open Sys2Proof Sys2Proof.Machine Sys2Proof.Statements

/-- Settles O55, by induction on the number of re-bids. -/
theorem rebidsNeverTouchACounter : Obligations.RebidsNeverTouchACounter := by
  unfold Obligations.RebidsNeverTouchACounter
  intro P s n hs hfault
  induction n generalizing s with
  | zero => exact ⟨s, rfl, hs, rfl, rfl, (List.append_nil _).symm⟩
  | succ n ih =>
    obtain ⟨u, hrebid, hu, hfault', hc0, hc1, heff⟩ := execSeq_rebid P hs hfault
    obtain ⟨t, hrest, ht, hc0', hc1', heff'⟩ := ih u hu hfault'
    refine ⟨t, ?_, ht, hc0'.trans hc0, hc1'.trans hc1, ?_⟩
    · rw [List.replicate_succ, List.flatten_cons, execSeq_append hrebid, hrest]
    · rw [heff', heff, List.append_assoc, List.replicate_succ, List.singleton_append]

/-- Settles O56: the event is a bounded retry, which answers in a state of the invariant and finds both
counters below their cap. -/
theorem retriesOfACycleAreBounded : Obligations.RetriesOfACycleAreBounded := by
  unfold Obligations.RetriesOfACycleAreBounded
  intro P s i h hrole hi
  obtain ⟨t, ht, -⟩ := h.execWith_answers i
  obtain ⟨a, hretry⟩ := execWith_eq_retry (P := P) h.resting hrole hi
  exact ⟨t, ht, retry_failsOrAddsOne h.c0_le h.c1_le (hretry.symm.trans ht)⟩

end Sys2Proof.Proofs
